-- ==== Sys2Proof/Word.lean ====
section
/-! DEFINITION. The word types: a colour channel is a `u8` (R11), an encoded operation is a string of bits, the most
significant bit of the first field first (R70). The counters, the limits and the time source are not bit vectors: the
spec computes them as exact integers (R12, R151). -/

namespace Sys2Proof

/-- One `u8`: a colour channel, 0 to 255 (R11). -/
abbrev Byte := BitVec 8

/-- An encoded operation or table row: its bits in the order they are written, `OP` first (R70). -/
abbrev Bits := List Bool

end Sys2Proof
end

