-- ==== Sys2Proof/Config.lean ====
section
/-! DEFINITION. The build-time parameters of the block (00_scope.md R5 to R9) as one record, and the one free value.
The record is carried in State and no step writes it, so a statement about every state is a statement about every
configuration. -/

namespace Sys2Proof

/-- `QDIR` in (+1, -1): the global sign of the lookup table (R6, D7, U4). -/
inductive QDir where
  | plus
  | minus
  deriving DecidableEq, Repr

/-- The implementation parameters of R5 to R9: "all fixed at build time, not runtime-configurable". -/
structure Config where
  /-- `K`: the strip length in pixels (R5). -/
  k : Nat
  /-- `F_CPU`: the processor clock in Hz (R5). -/
  fCpu : Nat
  /-- `T0H_NS`: high time of a 0 bit in ns (R5). -/
  t0hNs : Nat
  /-- `T0L_NS`: low time of a 0 bit in ns (R5). -/
  t0lNs : Nat
  /-- `T1H_NS`: high time of a 1 bit in ns (R5). -/
  t1hNs : Nat
  /-- `T1L_NS`: low time of a 1 bit in ns (R5). -/
  t1lNs : Nat
  /-- `TRESET_NS`: the minimum latch gap in ns (R5). -/
  tResetNs : Nat
  /-- `OVH_CYCLES`: the cycles subtracted from each ideal busy-wait count (R5). -/
  ovhCycles : Nat
  /-- `G_NS`: the granularity of the latch wait in ns (R5). -/
  gNs : Nat
  /-- `W`: the width in bits of the signed integers (R6, D4). -/
  w : Nat
  /-- `S`: quadrature edges per mechanical detent (R6, D5). -/
  s : Nat
  /-- `QDIR` (R6, D7). -/
  qdir : QDir
  /-- `SHORT_T`: the short-click threshold in ticks (R7). -/
  shortT : Nat
  /-- `LONG_T`: the long-click threshold in ticks (R7). -/
  longT : Nat
  /-- `TW`: the width in bits of `NOW` and `pressStart` (R7, D12). -/
  tw : Nat
  /-- `TICK_NS`: the duration of one tick, which no rule reads (R7). -/
  tickNs : Nat
  /-- DESIGN CHOICE (log entry 2): the width in bits of an array reference in an encoded `PX_ARRAY`; the spec gives
  references no numeric form (R61). -/
  refW : Nat
  /-- `RESET_COUNTER` (R9). -/
  resetCounter : Int
  /-- `RESET_MIN` (R9). -/
  resetMin : Int
  /-- `RESET_MAX` (R9). -/
  resetMax : Int
  /-- `RESET_WRAP` (R9). -/
  resetWrap : Bool
  /-- `RESET_HIST` (R9). -/
  resetHist : BitVec 4
  deriving DecidableEq, Repr

/-- DESIGN CHOICE (log entry 1): the illustrative values of R5, R6 and 95_test_vectors.md, with the default reset
values of R9. `K` has no illustrative value; the programs P1 and P5 run with 2. -/
def Config.illustrative : Config where
  k := 2
  fCpu := 16000000
  t0hNs := 400
  t0lNs := 900
  t1hNs := 900
  t1lNs := 600
  tResetNs := 50000
  ovhCycles := 2
  gNs := 1000
  w := 16
  s := 4
  qdir := .plus
  shortT := 50
  longT := 1000
  tw := 32
  tickNs := 1000000
  refW := 16
  resetCounter := 0
  resetMin := 0
  resetMax := 0
  resetWrap := false
  resetHist := 0#4

/-- FREE VALUE (log entry 7): the level of an input line that nobody drives and no pull-up holds, "outside the block"
(R213, U12). Applied to a counter of State, so each use is a fresh value. -/
opaque Config.floatLevel : Nat → Bool

end Sys2Proof
end

