-- ==== Sys2Proof/Machine/Params.lean ====
section
/-! DEFINITION. The values derived from the parameters: the integer range and the safe sub-range (R6), nanoseconds to
cycles (R81), the latch wait (R82), the lookup table (R84), and which configurations are well formed (R5, R9, R81). -/

namespace Sys2Proof

/-- The sign `QDIR` as a factor (R84). -/
def QDir.sign : QDir → Int
  | .plus => 1
  | .minus => -1

namespace Config

/-- `INT_MIN = -2^(W-1)` (R6). -/
def intMin (c : Config) : Int := -(2 ^ (c.w - 1) : Nat)

/-- `INT_MAX = 2^(W-1) - 1` (R6). -/
def intMax (c : Config) : Int := (2 ^ (c.w - 1) : Nat) - 1

/-- `LIM_LO = trunc(INT_MIN / S)` (R6, D6). -/
def limLo (c : Config) : Int := c.intMin.tdiv c.s

/-- `LIM_HI = trunc(INT_MAX / S)` (R6, D6). -/
def limHi (c : Config) : Int := c.intMax.tdiv c.s

/-- `ceil(a / b)`. -/
def ceilDiv (a b : Nat) : Nat := a / b + if a % b = 0 then 0 else 1

/-- `CYC(T) = floor(T * F_CPU / 10^9)` (R81, D17). -/
def cyc (c : Config) (ns : Nat) : Nat := ns * c.fCpu / 1000000000

/-- `DLY(T) = CYC(T) - OVH_CYCLES`, as an integer: it is negative in an ill-formed configuration (R81). -/
def dly (c : Config) (ns : Nat) : Int := (c.cyc ns : Int) - c.ovhCycles

/-- `LATCH_NS = ceil(TRESET_NS / G_NS) * G_NS` (R82, D18). -/
def latchNs (c : Config) : Nat := ceilDiv c.tResetNs c.gNs * c.gNs

/-- `LATCH_CYC = ceil(LATCH_NS * F_CPU / 10^9)` (R82). -/
def latchCyc (c : Config) : Nat := ceilDiv (c.latchNs * c.fCpu) 1000000000

/-- The parameters of the transmitter satisfy R5 (with D28, D34) and R81: the precondition R109 (c). -/
abbrev TimingOk (c : Config) : Prop :=
  1 ≤ c.k ∧ 0 < c.fCpu ∧
  0 < c.t0hNs ∧ 0 < c.t0lNs ∧ 0 < c.t1hNs ∧ 0 < c.t1lNs ∧ 0 < c.tResetNs ∧ 0 < c.gNs ∧
  c.t1lNs < c.t1hNs ∧ c.t0hNs < c.t0lNs ∧ c.t0hNs < c.t1hNs ∧
  0 ≤ c.dly c.t0hNs ∧ 0 ≤ c.dly c.t0lNs ∧ 0 ≤ c.dly c.t1hNs ∧ 0 ≤ c.dly c.t1lNs

/-- The parameters of the decoder satisfy R6 (`W >= 2` is D4, `S >= 1` is D5) and R9. -/
abbrev DecoderOk (c : Config) : Prop :=
  2 ≤ c.w ∧ 1 ≤ c.s ∧ c.intMin ≤ c.resetMin ∧ c.resetMin ≤ c.resetCounter ∧
  c.resetCounter ≤ c.resetMax ∧ c.resetMax ≤ c.intMax

/-- A configuration the spec allows. -/
abbrev Wf (c : Config) : Prop := c.TimingOk ∧ c.DecoderOk

end Config

/-- The 16 values `T[i]` of R84, from index 0: the table for `QDIR = +1`. -/
def lutTable : List Int := [0, -1, 1, 0, 1, 0, 0, -1, -1, 0, 0, 1, 0, 1, -1, 0]

/-- `LUT[i] = QDIR * T[i]` (R84); every index is legal (R52). -/
def Config.lut (c : Config) (i : BitVec 4) : Int := c.qdir.sign * lutTable.getD i.toNat 0

end Sys2Proof
end

