-- ==== Sys2Proof/Syntax.lean ====
section
/-! DEFINITION. The instructions: one constructor per row of spec/opcode_table.json. The nine operations come first
(30_encoding.md R87), then the unassigned codes (R89) and the rows that stand in formats of their own: the lookup
table (R84), the wire symbols (R73, R74), the codes of `btnState` (R86, R90) and the result codes of `ENC_SET` (R72). -/

namespace Sys2Proof

/-- A reference to a caller array (R51, R108). The source gives references no numeric form (R61): log entry 2. -/
abbrev ArrayRef := Nat

/-- The five formats of the table's rows; each has a key space of its own (R87, last paragraph). -/
inductive Format where
  | operation
  | lutEntry
  | wireSymbol
  | btnCode
  | resultCode
  deriving DecidableEq, Repr

/-- The two execution contexts (R196): "the main (foreground) context, and the interrupt context". -/
inductive Context where
  | foreground
  | interrupt
  deriving DecidableEq, Repr

/-- One constructor per row of spec/opcode_table.json. -/
inductive Instr where
  /-- `PX_BEGIN` (R100). -/
  | pxBegin
  /-- `PX_UNIFORM r, g, b` (R101). -/
  | pxUniform (r g b : Byte)
  /-- `PX_ARRAY r, g, b` (R103). -/
  | pxArray (r g b : ArrayRef)
  /-- `ENC_BEGIN` (R130). -/
  | encBegin
  /-- `ENC_GET` (R136). -/
  | encGet
  /-- `ENC_SET value, minLimit, maxLimit, wrap` (R140). -/
  | encSet (value minLimit maxLimit : Int) (wrap : Bool)
  /-- `BTN_GET` (R166). -/
  | btnGet
  /-- `ENC_ISR_Q a, b` (R131). -/
  | encIsrQ (a b : Bool)
  /-- `ENC_ISR_B lvl, t` (R160). -/
  | encIsrB (lvl : Bool) (t : Nat)
  /-- `OP` values that select no operation (R89). -/
  | unassigned3
  | unassignedA
  | unassignedB
  | unassignedC
  | unassignedD
  | unassignedE
  | unassignedF
  /-- The 16 entries of the lookup table (R84), one constructor each. -/
  | lut0
  | lut1
  | lut2
  | lut3
  | lut4
  | lut5
  | lut6
  | lut7
  | lut8
  | lut9
  | lut10
  | lut11
  | lut12
  | lut13
  | lut14
  | lut15
  /-- The wire symbols (R73, R74). -/
  | bit0
  | bit1
  | latch
  /-- The codes of `btnState` (R86) and the code never produced (R90). -/
  | btnStateNone
  | btnStateShortClick
  | btnStateLongClick
  | btnStateUnreachable
  /-- The result codes of `ENC_SET` (R72). -/
  | resultFail
  | resultOk
  deriving DecidableEq, Repr

/-- The format a row stands in. -/
def Instr.format : Instr → Format
  | .pxBegin | .pxUniform .. | .pxArray .. | .encBegin | .encGet | .encSet .. | .btnGet | .encIsrQ ..
  | .encIsrB .. | .unassigned3 | .unassignedA | .unassignedB | .unassignedC | .unassignedD | .unassignedE
  | .unassignedF => .operation
  | .lut0 | .lut1 | .lut2 | .lut3 | .lut4 | .lut5 | .lut6 | .lut7 | .lut8 | .lut9 | .lut10 | .lut11 | .lut12
  | .lut13 | .lut14 | .lut15 => .lutEntry
  | .bit0 | .bit1 | .latch => .wireSymbol
  | .btnStateNone | .btnStateShortClick | .btnStateLongClick | .btnStateUnreachable => .btnCode
  | .resultFail | .resultOk => .resultCode

end Sys2Proof
end

