-- ==== Sys2Proof/WellFormed.lean ====
section
/-! DEFINITION. Which instructions have an encoding: every operand fits its field (30_encoding.md R72). Colours and
single bits fit by their types. -/

namespace Sys2Proof

/-- A `sW` operand (R11, R91). -/
def Config.fitsSigned (c : Config) (v : Int) : Bool := decide (c.intMin ≤ v) && decide (v ≤ c.intMax)

/-- A `uTW` operand (R11). -/
def Config.fitsTime (c : Config) (t : Nat) : Bool := decide (t < 2 ^ c.tw)

/-- An array reference (log entry 2). -/
def Config.fitsRef (c : Config) (r : ArrayRef) : Bool := decide (r < 2 ^ c.refW)

/-- The operands of an instruction fit the fields of R72. -/
def Instr.wellFormed (c : Config) : Instr → Bool
  | .pxArray r g b => c.fitsRef r && c.fitsRef g && c.fitsRef b
  | .encSet v lo hi _ => c.fitsSigned v && c.fitsSigned lo && c.fitsSigned hi
  | .encIsrB _ t => c.fitsTime t
  | .pxBegin | .pxUniform .. | .encBegin | .encGet | .btnGet | .encIsrQ .. => true
  | .unassigned3 | .unassignedA | .unassignedB | .unassignedC | .unassignedD | .unassignedE | .unassignedF => true
  | .lut0 | .lut1 | .lut2 | .lut3 | .lut4 | .lut5 | .lut6 | .lut7 | .lut8 | .lut9 | .lut10 | .lut11 | .lut12
  | .lut13 | .lut14 | .lut15 => true
  | .bit0 | .bit1 | .latch => true
  | .btnStateNone | .btnStateShortClick | .btnStateLongClick | .btnStateUnreachable => true
  | .resultFail | .resultOk => true

end Sys2Proof
end

