-- ==== Sys2Proof/Decode.lean ====
section
/-! DEFINITION. The decoder, total on any bits and rejecting by name, and after it the encoder. An operation is its 4-bit
`OP` followed by its operands, most significant field first, each field most significant bit first (30_encoding.md
R70, R72, R87). A row of another format is its key alone, in as many bits as its format has (R84, R86, R72;
the keys of the wire symbols are the table's own). The two widths `W`, `TW` are parameters, and the width of an array
reference is log entry 2. -/

namespace Sys2Proof

/-- Why bits are no instruction. -/
inductive Reject where
  /-- Fewer bits than the format needs. -/
  | truncated
  /-- A key of the format that no row has (code 3 of the wire symbols). -/
  | noSuchRow
  deriving DecidableEq, Repr

/-- The unsigned number whose bits these are, most significant first (R10). -/
def natOfBits : Bits → Nat
  | [] => 0
  | b :: bs => b.toNat * 2 ^ bs.length + natOfBits bs

/-- The low `n` bits of `v`, most significant first (R10). -/
def bitsOfNat : Nat → Nat → Bits
  | 0, _ => []
  | n + 1, v => v.testBit n :: bitsOfNat n v

/-- Two's complement: the `sN` value of an `N`-bit field (R11). -/
def signedOfNat (n v : Nat) : Int := if v < 2 ^ (n - 1) then (v : Int) else (v : Int) - (2 ^ n : Nat)

/-- Two's complement: the `N`-bit field of an `sN` value (R11). -/
def natOfSigned (n : Nat) (v : Int) : Nat := (v % (2 ^ n : Nat)).toNat

/-- What a decoder answers: the instruction and the bits after it, or a rejection by name. -/
abbrev Decoded := Except Reject (Instr × Bits)

/-- The value of the next `n` bits after the bits already read, and the bits after them; none if there are fewer. -/
def takeBits : Nat → Nat → Bits → Option (Nat × Bits)
  | 0, acc, bs => some (acc, bs)
  | _ + 1, _, [] => none
  | n + 1, acc, b :: bs => takeBits n (2 * acc + b.toNat) bs

/-- Take an `n`-bit field off the front. -/
def readField (n : Nat) (bs : Bits) (k : Nat → Bits → Decoded) : Decoded :=
  match takeBits n 0 bs with
  | some (v, rest) => k v rest
  | none => .error .truncated

/-- A `u8` operand (R72). -/
def readByte (bs : Bits) (k : Byte → Bits → Decoded) : Decoded :=
  readField 8 bs fun v rest => k (BitVec.ofNat 8 v) rest

/-- A `sW` operand (R72). -/
def readSigned (c : Config) (bs : Bits) (k : Int → Bits → Decoded) : Decoded :=
  readField c.w bs fun v rest => k (signedOfNat c.w v) rest

/-- A 1-bit operand (R72). -/
def readBit (bs : Bits) (k : Bool → Bits → Decoded) : Decoded :=
  readField 1 bs fun v rest => k (v == 1) rest

/-- The operation that `OP` selects, with its operands (R72, R87, R89). -/
def decodeOperands (c : Config) (op : Nat) (bs : Bits) : Decoded :=
  match op with
  | 0x0 => .ok (.pxBegin, bs)
  | 0x1 => readByte bs fun r bs => readByte bs fun g bs => readByte bs fun b bs => .ok (.pxUniform r g b, bs)
  | 0x2 =>
    readField c.refW bs fun r bs => readField c.refW bs fun g bs => readField c.refW bs fun b bs =>
      .ok (.pxArray r g b, bs)
  | 0x3 => .ok (.unassigned3, bs)
  | 0x4 => .ok (.encBegin, bs)
  | 0x5 => .ok (.encGet, bs)
  | 0x6 =>
    readSigned c bs fun value bs => readSigned c bs fun lo bs => readSigned c bs fun hi bs => readBit bs fun wrap bs =>
      .ok (.encSet value lo hi wrap, bs)
  | 0x7 => .ok (.btnGet, bs)
  | 0x8 => readBit bs fun a bs => readBit bs fun b bs => .ok (.encIsrQ a b, bs)
  | 0x9 => readBit bs fun lvl bs => readField c.tw bs fun t bs => .ok (.encIsrB lvl t, bs)
  | 0xA => .ok (.unassignedA, bs)
  | 0xB => .ok (.unassignedB, bs)
  | 0xC => .ok (.unassignedC, bs)
  | 0xD => .ok (.unassignedD, bs)
  | 0xE => .ok (.unassignedE, bs)
  | 0xF => .ok (.unassignedF, bs)
  | _ => .error .noSuchRow

/-- An entry of the lookup table, by its index (R84). -/
def decodeLut (i : Nat) (bs : Bits) : Decoded :=
  match i with
  | 0 => .ok (.lut0, bs)
  | 1 => .ok (.lut1, bs)
  | 2 => .ok (.lut2, bs)
  | 3 => .ok (.lut3, bs)
  | 4 => .ok (.lut4, bs)
  | 5 => .ok (.lut5, bs)
  | 6 => .ok (.lut6, bs)
  | 7 => .ok (.lut7, bs)
  | 8 => .ok (.lut8, bs)
  | 9 => .ok (.lut9, bs)
  | 10 => .ok (.lut10, bs)
  | 11 => .ok (.lut11, bs)
  | 12 => .ok (.lut12, bs)
  | 13 => .ok (.lut13, bs)
  | 14 => .ok (.lut14, bs)
  | 15 => .ok (.lut15, bs)
  | _ => .error .noSuchRow

/-- A wire symbol, by the table's row key. -/
def decodeSymbol (i : Nat) (bs : Bits) : Decoded :=
  match i with
  | 0 => .ok (.bit0, bs)
  | 1 => .ok (.bit1, bs)
  | 2 => .ok (.latch, bs)
  | _ => .error .noSuchRow

/-- A code of `btnState` (R86, R90). -/
def decodeBtnCode (i : Nat) (bs : Bits) : Decoded :=
  match i with
  | 0 => .ok (.btnStateNone, bs)
  | 1 => .ok (.btnStateShortClick, bs)
  | 2 => .ok (.btnStateLongClick, bs)
  | 3 => .ok (.btnStateUnreachable, bs)
  | _ => .error .noSuchRow

/-- A result code of `ENC_SET` (R72, D24). -/
def decodeResult (i : Nat) (bs : Bits) : Decoded :=
  match i with
  | 0 => .ok (.resultFail, bs)
  | 1 => .ok (.resultOk, bs)
  | _ => .error .noSuchRow

/-- The decoder of one format: the instruction at the front of the bits, and the bits after it. -/
def decode (c : Config) : Format → Bits → Decoded
  | .operation, bs => readField 4 bs (decodeOperands c)
  | .lutEntry, bs => readField 4 bs decodeLut
  | .wireSymbol, bs => readField 2 bs decodeSymbol
  | .btnCode, bs => readField 2 bs decodeBtnCode
  | .resultCode, bs => readField 1 bs decodeResult

/-- A `sW` field (R72). -/
def signedField (c : Config) (v : Int) : Bits := bitsOfNat c.w (natOfSigned c.w v)

/-- The encoder: the bits of an instruction in its own format (R70, R72, R84, R86, R87, R89). -/
def encode (c : Config) : Instr → Bits
  | .pxBegin => bitsOfNat 4 0x0
  | .pxUniform r g b => bitsOfNat 4 0x1 ++ (bitsOfNat 8 r.toNat ++ (bitsOfNat 8 g.toNat ++ bitsOfNat 8 b.toNat))
  | .pxArray r g b => bitsOfNat 4 0x2 ++ (bitsOfNat c.refW r ++ (bitsOfNat c.refW g ++ bitsOfNat c.refW b))
  | .unassigned3 => bitsOfNat 4 0x3
  | .encBegin => bitsOfNat 4 0x4
  | .encGet => bitsOfNat 4 0x5
  | .encSet value lo hi wrap =>
    bitsOfNat 4 0x6 ++ (signedField c value ++ (signedField c lo ++ (signedField c hi ++ [wrap])))
  | .btnGet => bitsOfNat 4 0x7
  | .encIsrQ a b => bitsOfNat 4 0x8 ++ [a, b]
  | .encIsrB lvl t => bitsOfNat 4 0x9 ++ (lvl :: bitsOfNat c.tw t)
  | .unassignedA => bitsOfNat 4 0xA
  | .unassignedB => bitsOfNat 4 0xB
  | .unassignedC => bitsOfNat 4 0xC
  | .unassignedD => bitsOfNat 4 0xD
  | .unassignedE => bitsOfNat 4 0xE
  | .unassignedF => bitsOfNat 4 0xF
  | .lut0 => bitsOfNat 4 0
  | .lut1 => bitsOfNat 4 1
  | .lut2 => bitsOfNat 4 2
  | .lut3 => bitsOfNat 4 3
  | .lut4 => bitsOfNat 4 4
  | .lut5 => bitsOfNat 4 5
  | .lut6 => bitsOfNat 4 6
  | .lut7 => bitsOfNat 4 7
  | .lut8 => bitsOfNat 4 8
  | .lut9 => bitsOfNat 4 9
  | .lut10 => bitsOfNat 4 10
  | .lut11 => bitsOfNat 4 11
  | .lut12 => bitsOfNat 4 12
  | .lut13 => bitsOfNat 4 13
  | .lut14 => bitsOfNat 4 14
  | .lut15 => bitsOfNat 4 15
  | .bit0 => bitsOfNat 2 0
  | .bit1 => bitsOfNat 2 1
  | .latch => bitsOfNat 2 2
  | .btnStateNone => bitsOfNat 2 0
  | .btnStateShortClick => bitsOfNat 2 1
  | .btnStateLongClick => bitsOfNat 2 2
  | .btnStateUnreachable => bitsOfNat 2 3
  | .resultFail => bitsOfNat 1 0
  | .resultOk => bitsOfNat 1 1

/-- How many bits an instruction takes: one length per operation (R70), from the operand widths of R72. -/
def Instr.bitLength (c : Config) : Instr → Nat
  | .pxUniform .. => 4 + 3 * 8
  | .pxArray .. => 4 + 3 * c.refW
  | .encSet .. => 4 + 3 * c.w + 1
  | .encIsrQ .. => 4 + 2
  | .encIsrB .. => 4 + 1 + c.tw
  | .pxBegin | .encBegin | .encGet | .btnGet => 4
  | .unassigned3 | .unassignedA | .unassignedB | .unassignedC | .unassignedD | .unassignedE | .unassignedF => 4
  | .lut0 | .lut1 | .lut2 | .lut3 | .lut4 | .lut5 | .lut6 | .lut7 | .lut8 | .lut9 | .lut10 | .lut11 | .lut12
  | .lut13 | .lut14 | .lut15 => 4
  | .bit0 | .bit1 | .latch => 2
  | .btnStateNone | .btnStateShortClick | .btnStateLongClick | .btnStateUnreachable => 2
  | .resultFail | .resultOk => 1

/-- The context column of R87: which context issues the operation (R71). For a row that is no operation, the context
in which the spec uses the row's value (log entry 8). -/
def Instr.issuer : Instr → Context
  | .encIsrQ .. | .encIsrB .. => .interrupt
  | .lut0 | .lut1 | .lut2 | .lut3 | .lut4 | .lut5 | .lut6 | .lut7 | .lut8 | .lut9 | .lut10 | .lut11 | .lut12
  | .lut13 | .lut14 | .lut15 => .interrupt
  | .btnStateShortClick | .btnStateLongClick => .interrupt
  | .pxBegin | .pxUniform .. | .pxArray .. | .encBegin | .encGet | .encSet .. | .btnGet => .foreground
  | .unassigned3 | .unassignedA | .unassignedB | .unassignedC | .unassignedD | .unassignedE | .unassignedF =>
    .foreground
  | .bit0 | .bit1 | .latch => .foreground
  | .btnStateNone | .btnStateUnreachable => .foreground
  | .resultFail | .resultOk => .foreground

/-- The first `n` words of a table word. A word of the operation interface is 4 bits, the size of the select field
`OP`; word `j` stands at bits `4j+3 .. 4j` of the table's numbering, its least significant bit lowest. -/
def tableNibbles : Nat → Nat → Bits
  | 0, _ => []
  | n + 1, w => bitsOfNat 4 (w % 16) ++ tableNibbles n (w / 16)

/-- The longest operation, in bits (R72). -/
def Config.longest (c : Config) : Nat :=
  4 + Nat.max (Nat.max (3 * 8) (3 * c.refW)) (Nat.max (3 * c.w + 1) (1 + c.tw))

/-- The bits of a table word of `nbits` bits, with zero bits after them for the operands the table gives no bits. -/
def tableBits (c : Config) (nbits w : Nat) : Bits :=
  tableNibbles ((nbits + 3) / 4) w ++ List.replicate c.longest false

/-- The instruction the decoder reads from a table word, as an operation. The rows of the other formats share their
keys with operations (LUT_3 and UNASSIGNED_0x3 are both the word 3), and what is issued to the block is an operation
(R70, R87), so the table word is read as one. -/
def decodeTableWord (nbits w : Nat) : Option Instr :=
  match decode Config.illustrative .operation (tableBits Config.illustrative nbits w) with
  | .ok (i, _) => some i
  | .error _ => none

end Sys2Proof
end

