-- ==== Sys2Proof/Machine/State.lean ====
section
/-! DEFINITION. The state of the block (10_state.md), of the inputs it samples (R38) and of the agents around it (R18),
as plain data; why a step can stop; and the state after reset (R40). -/

namespace Sys2Proof.Machine

/-- The values of `btnState` (R26, R86); code 3 never occurs (R90, U11). -/
inductive BtnState where
  | none
  | shortClick
  | longClick
  deriving DecidableEq, Repr

/-- A symbol on the output line (R73, R74). -/
inductive Symbol where
  | bit0
  | bit1
  | latch
  deriving DecidableEq, Repr

/-- A segment of the waveform trace: a level held for a number of cycles (R17, R39). -/
structure Segment where
  level : Bool
  cycles : Nat
  deriving DecidableEq, Repr

/-- The channel byte being sent: 0 = green, 1 = red, 2 = blue (R25). -/
inductive Channel where
  | green
  | red
  | blue
  deriving DecidableEq, Repr

/-- The half of the bit symbol being sent (R25). -/
inductive Phase where
  | high
  | low
  deriving DecidableEq, Repr

/-- The sequencer position `tx` of the transmitter (R25). -/
inductive TxPos where
  | idle
  | sending (pix : Nat) (ch : Channel) (bit : Fin 8) (phase : Phase)
  | latching
  deriving DecidableEq, Repr

/-- One bit per input line (R31): `PUE_A`, `PUE_B`, `PUE_BTN`. -/
structure PullUps where
  a : Bool
  b : Bool
  btn : Bool
  deriving DecidableEq, Repr

/-- The three monitored input lines (R8). -/
inductive InLine where
  | a
  | b
  | btn
  deriving DecidableEq, Repr

/-- What the last returning operation delivered to the foreground (R15, R72). -/
inductive Ret where
  | none
  /-- `ENC_GET`: a `sW` value in detent units. -/
  | detents (v : Int)
  /-- `ENC_SET`: `OK` is true, `FAIL` is false. -/
  | status (ok : Bool)
  /-- `BTN_GET`. -/
  | click (b : BtnState)
  deriving DecidableEq, Repr

/-- The caller's channel arrays (R51): array reference and contents. An unlisted reference is the empty array, which
holds no element (log entry 5). -/
abbrev Memory := List (ArrayRef × List Byte)

/-- The canonical form: references strictly rising, and no listed array reads as an unlisted one does. -/
abbrev Memory.wf (m : Memory) : Prop := m.Pairwise (fun x y => x.1 < y.1) ∧ ∀ e ∈ m, e.2 ≠ []

/-- One scheduled step of an agent (R18, R62, R93; log entry 3). -/
inductive Event where
  /-- The current context issues the operation encoded by these bits. -/
  | issue (bits : Bits)
  /-- The interrupt agent runs the handler once. -/
  | irq
  /-- The environment sets a line to a level. -/
  | pin (l : InLine) (v : Bool)
  /-- The environment stops driving a line (R31). -/
  | release (l : InLine)
  /-- The environment sets `NOW`. -/
  | time (t : Nat)
  /-- The caller's software writes one of its arrays (P5 step 6). -/
  | callerWrite (r : ArrayRef) (bytes : List Byte)
  deriving DecidableEq, Repr

/-- The state. Every field but the last group is a register of 10_state.md, a trace of R39, or a context of R196. -/
structure State where
  /-- The build-time parameters (R5 to R9): constants, which no step writes (R38 (b)). -/
  cfg : Config
  /-- R21: `sW`, one unit is one sub-step. -/
  counter : Int
  /-- R22. -/
  counterMinLimit : Int
  /-- R22. -/
  counterMaxLimit : Int
  /-- R23: true = wrap, false = saturate. -/
  wrap : Bool
  /-- R34: previous sample in bits 3..2, most recent sample in bits 1..0. -/
  hist : BitVec 4
  /-- R26. -/
  btnState : BtnState
  /-- R35: `uTW`. -/
  pressStart : Nat
  /-- R36: true = high = released. -/
  prevBtn : Bool
  /-- R29: `DOUT_OE`. -/
  doutOe : Bool
  /-- R30: `DOUT`. -/
  dout : Bool
  /-- R31: `PUE`. -/
  pue : PullUps
  /-- R32: `PCIE`. -/
  pcie : Bool
  /-- R37: `PCPEND`. -/
  pcpend : Bool
  /-- R33: `IE`. -/
  ie : Bool
  /-- R25. -/
  tx : TxPos
  /-- R39: `SYM`, oldest first. -/
  sym : List Symbol
  /-- R39: `WIRE`, oldest first. -/
  wire : List Segment
  /-- R196: the context that is executing. -/
  context : Context
  /-- R38 (c): the level of `PIN_A`, true = high. -/
  pinA : Bool
  /-- R38 (c): the level of `PIN_B`. -/
  pinB : Bool
  /-- R38 (c): the level of `PIN_BTN`. -/
  pinBtn : Bool
  /-- R38 (c), R199: the time source `NOW`, `uTW`. -/
  now : Nat
  /-- R51: the caller's channel arrays. -/
  arrays : Memory
  /-- The model's own field (log entry 4): the value the last `return v` delivered. -/
  ret : Ret
  /-- The model's own field (log entry 3): the steps the agents are scheduled to take, the next one first. -/
  script : List Event
  /-- The model's own field (log entry 7): how many free values have been used. -/
  freeIndex : Nat
  deriving DecidableEq, Repr

/-- Why the machine stops with a fault. The block itself raises none (R180). -/
inductive Fault where
  /-- Raised by the step, never by an operation: the bits scheduled as an operation are fewer than the operation's one
  length (R70), so no such operation exists. Safe: the model stops. -/
  | truncatedOperation
  deriving DecidableEq, Repr

/-- Why the model gives a step no meaning. Every one is safe: the model stops where the hardware might go on. -/
inductive Refusal where
  /-- Raised by exec for an instruction that has no meaning yet. -/
  | notModelled (mnemonic : String)
  /-- Raised by every operation: issued from the wrong context (R71, R195, D22, U8). -/
  | wrongContext
  /-- Raised by the transmit operations and the wire symbols: `DOUT_OE = 0` (R109 (b), D23, U7). -/
  | outputNotEnabled
  /-- Raised by the transmit operations: the timing parameters are ill formed (R109 (c), R5, R81). -/
  | timingIllFormed
  /-- Raised by `PX_ARRAY`: an array shorter than K (R51, R103, U1). -/
  | shortArray
  /-- Raised by the wire symbols and the clearing code of `btnState`: `IE = 1` where the spec has interrupts suspended
  (R104, U2; R59, U9). -/
  | interruptsNotSuspended
  /-- Raised by the bit symbols: no frame is in progress, so there is no position `tx` (R25). -/
  | noFrameInProgress
  /-- Raised by the unassigned codes: they select no operation (R89, U10). -/
  | unassignedOperation (op : Nat)
  /-- Raised by code 3 of `btnState`: never produced, never returned (R90, U11). -/
  | unreachableCode
  /-- Raised by an `IRQ` step that is not legal: the handler is not enabled (R93, R187). -/
  | handlerNotEnabled
  deriving DecidableEq, Repr

/-- What a meaning answers. -/
abbrev Out := Host.Outcome State Fault Refusal

/-- The state after reset of a block with these parameters (R40). The fields below `context` are inputs and the model's
own (log entries 3 to 7). -/
def State.resetWith (c : Config) : State where
  cfg := c
  counter := c.resetCounter
  counterMinLimit := c.resetMin
  counterMaxLimit := c.resetMax
  wrap := c.resetWrap
  hist := c.resetHist
  btnState := .none
  pressStart := 0
  prevBtn := true
  doutOe := false
  dout := false
  pue := ⟨false, false, false⟩
  pcie := false
  pcpend := false
  ie := true
  tx := .idle
  sym := []
  wire := []
  context := .foreground
  pinA := false
  pinB := false
  pinBtn := true
  now := 0
  arrays := []
  ret := .none
  script := []
  freeIndex := 0

/-- The state after reset, with the illustrative parameters (log entry 1). -/
def State.reset : State := State.resetWith Config.illustrative

end Sys2Proof.Machine
end

