-- ==== Sys2Proof/Machine/Ops.lean ====
section
/-! DEFINITION. The named operations over registers and memory: suspension (R16), the output primitives (R17), the
delivery of a result (R15), the caller's arrays (R14, R51), the input lines and the raising of the one interrupt
(R186), and TAKING THE INTERRUPT with the return from it (R187, R190, R192, R194). -/

namespace Sys2Proof.Machine

/-! ### Interrupt suspension (R16) -/

/-- `SUSPEND()` is `IE <- 0`. It does not count (D16). -/
def suspend (s : State) : State := { s with ie := false }

/-- `RESUME()` is `IE <- 1`, whatever `IE` was (D16, R228). -/
def resume (s : State) : State := { s with ie := true }

/-- `atomic { body }` abbreviates `SUSPEND(); body; RESUME()`. -/
def atomic (body : State → State) (s : State) : State := resume (body (suspend s))

/-! ### Contexts (R71, R196) -/

/-- An operation issued from the wrong context is refused (R71, D22). -/
def inContext (c : Context) (s : State) (o : Out) : Out :=
  if s.context = c then o else .refused .wrongContext

/-- The next state after two parts of a step in turn. -/
def andThen (o : Out) (f : State → Out) : Out :=
  match o with
  | .next s => f s
  | .fault r => .fault r
  | .refused r => .refused r

/-! ### Results (R15) -/

/-- `return v` ends an operation and delivers `v` to the foreground caller. -/
def deliver (v : Ret) (s : State) : State := { s with ret := v }

/-! ### Output primitives (R17, R200) -/

/-- `Drive(l)` sets the output latch. -/
def drive (l : Bool) (s : State) : State := { s with dout := l }

/-- `Delay(c)` blocks the foreground for `c` cycles "and has no other effect" (R200). -/
def delay (_cycles : Int) (s : State) : State := s

/-- `WaitAtLeast(ns)` blocks the foreground for at least `ns` nanoseconds (R17, R200). -/
def waitAtLeast (_ns : Nat) (s : State) : State := s

/-- `EmitSeg(l, c)` appends to the waveform trace. -/
def emitSeg (l : Bool) (c : Nat) (s : State) : State := { s with wire := s.wire ++ [⟨l, c⟩] }

/-- `Emit(sym)` appends to the symbol trace. -/
def emit (x : Symbol) (s : State) : State := { s with sym := s.sym ++ [x] }

/-- The level of `PIN_DOUT`: `DOUT` when `DOUT_OE = 1`, not driven by the block when `DOUT_OE = 0` (R202). -/
def State.doutLine (s : State) : Option Bool := if s.doutOe then some s.dout else none

/-! ### The sequencer position (R25) -/

/-- `tx <- p`. -/
def setTx (p : TxPos) (s : State) : State := { s with tx := p }

/-- `tx.ch <- ch`. -/
def TxPos.withCh (ch : Channel) : TxPos → TxPos
  | .sending pix _ bit ph => .sending pix ch bit ph
  | .idle => .idle
  | .latching => .latching

/-- `tx.bit <- bit`. -/
def TxPos.withBit (bit : Fin 8) : TxPos → TxPos
  | .sending pix ch _ ph => .sending pix ch bit ph
  | .idle => .idle
  | .latching => .latching

/-- `tx.phase <- ph`. -/
def TxPos.withPhase (ph : Phase) : TxPos → TxPos
  | .sending pix ch bit _ => .sending pix ch bit ph
  | .idle => .idle
  | .latching => .latching

/-- A frame is in progress and a bit is being sent. -/
def TxPos.isSending : TxPos → Bool
  | .sending .. => true
  | .idle => false
  | .latching => false

/-! ### The caller's arrays (R14, R51, R108) -/

/-- The contents of an array; an unlisted reference is the empty array. -/
def Memory.array : Memory → ArrayRef → List Byte
  | [], _ => []
  | (k, v) :: m, r => if k = r then v else Memory.array m r

/-- `MemRead(arr, i, 1)`: the byte at index `i`, defined only for `i < len(arr)` (R14, R51). -/
def memRead (m : Memory) (r : ArrayRef) (i : Nat) : Option Byte := (m.array r)[i]?

/-- The caller replaces the contents of an array, keeping the canonical form. The block itself never writes (R14). -/
def Memory.store : Memory → ArrayRef → List Byte → Memory
  | [], r, bytes => if bytes = [] then [] else [(r, bytes)]
  | (k, v) :: m, r, bytes =>
    if r < k then (if bytes = [] then (k, v) :: m else (r, bytes) :: (k, v) :: m)
    else if r = k then (if bytes = [] then m else (r, bytes) :: m)
    else (k, v) :: Memory.store m r bytes

/-! ### Input lines and the raising of the interrupt (R186) -/

/-- The level of an input line. -/
def State.level (s : State) : InLine → Bool
  | .a => s.pinA
  | .b => s.pinB
  | .btn => s.pinBtn

/-- The line takes a level, whatever it was. -/
def State.setLevel (s : State) (l : InLine) (v : Bool) : State :=
  match l with
  | .a => { s with pinA := v }
  | .b => { s with pinB := v }
  | .btn => { s with pinBtn := v }

/-- `PUE` of a line (R31). -/
def State.pullUp (s : State) : InLine → Bool
  | .a => s.pue.a
  | .b => s.pue.b
  | .btn => s.pue.btn

/-- Raising: a level transition does `if PCIE = 1: PCPEND <- 1`; `IE` plays no part; the same level written is no
transition (R186). -/
def raiseOnChange (changed : Bool) (s : State) : State :=
  if changed && s.pcie then { s with pcpend := true } else s

/-- The environment sets a line to a level (R93, R186). -/
def setPin (l : InLine) (v : Bool) (s : State) : State :=
  raiseOnChange (s.level l != v) (s.setLevel l v)

/-- The environment stops driving a line. A pull-up decides its level, high (R31); with the pull-up off the level is
outside the block (R213, U12): a free value (log entry 7). -/
def releasePin (l : InLine) (s : State) : State :=
  if s.pullUp l then setPin l true s
  else setPin l (Config.floatLevel s.freeIndex) { s with freeIndex := s.freeIndex + 1 }

/-- The environment sets `NOW`, a `uTW` value (R93, R199). Any value is "not less than the previous value, modulo
2^TW". -/
def setTime (t : Nat) (s : State) : State := { s with now := t % 2 ^ s.cfg.tw }

/-- The caller writes one of its arrays. -/
def callerStore (r : ArrayRef) (bytes : List Byte) (s : State) : State :=
  { s with arrays := s.arrays.store r bytes }

/-! ### Taking the interrupt and returning from it (R187, R190, R192 to R194) -/

/-- Dispatch: the handler is enabled when `PCPEND = 1` and `IE = 1` and no handler run is in progress (R187). -/
def State.handlerEnabled (s : State) : Bool := s.pcpend && s.ie && decide (s.context = .foreground)

/-- Entry: `PCPEND <- 0` and the interrupt context executes. No other register changes, nothing is saved, and `IE` is
not written (R192, R193). -/
def enterHandler (s : State) : State := { s with pcpend := false, context := .interrupt }

/-- Return: the foreground continues from where it was; nothing is restored (R194). -/
def leaveHandler (s : State) : State := { s with context := .foreground }

end Sys2Proof.Machine
end

