-- ==== Sys2Proof/Machine/Operands.lean ====
section
/-! DEFINITION. The operand forms: the encoder sample and the history (R76, R77, R80), detent scaling (R83), the
clamp (R12), the hold duration (R168), the colour triplets (R75, R79) and the bits of a byte (R54). -/

namespace Sys2Proof.Machine

/-- A sample is `b :: a`: bit 1 = line B, bit 0 = line A (R76). -/
def sample (a b : Bool) : BitVec 2 := BitVec.ofBool b ++ BitVec.ofBool a

/-- `hist <- ((hist << 2) | (b :: a)) & 0xF` (R80). -/
def pushSample (h : BitVec 4) (a b : Bool) : BitVec 4 := (h <<< 2) ||| (sample a b).setWidth 4

/-- `clamp(v, lo, hi)` (R12). -/
def clamp (v lo hi : Int) : Int := if v < lo then lo else if v > hi then hi else v

/-- A detent value in internal units: multiplication by `S`, exact (R83, R150). -/
def scale (c : Config) (v : Int) : Int := v * c.s

/-- The internal counter in detent units: `trunc(v / S)`, toward zero (R83, R152, D35). -/
def detents (c : Config) (v : Int) : Int := v.tdiv c.s

/-- A `uTW` operand. -/
def timeOperand (c : Config) (t : Nat) : Nat := t % 2 ^ c.tw

/-- `held = (t - pressStart) mod 2^TW` (R168, D12). -/
def heldTime (c : Config) (t start : Nat) : Nat := (((t : Int) - (start : Int)) % (2 ^ c.tw : Nat)).toNat

/-- The colour of one pixel, in the operand order (R55). -/
structure Triplet where
  r : Byte
  g : Byte
  b : Byte
  deriving DecidableEq, Repr

/-- The order in which the bits of a byte are sent: `v[7]` first (R54). -/
def bitOrder : List (Fin 8) := [7, 6, 5, 4, 3, 2, 1, 0]

/-- `v[bit]`. -/
def byteBit (v : Byte) (bit : Fin 8) : Bool := v.getLsbD bit

/-- The colour of pixel `i` from the three arrays, read in the order green, red, blue (R58, R79, R108). -/
def readTriplet (m : Memory) (r g b : ArrayRef) (i : Nat) : Option Triplet :=
  match memRead m g i, memRead m r i, memRead m b i with
  | some vg, some vr, some vb => some ⟨vr, vg, vb⟩
  | _, _, _ => none

/-- The colours of pixels `pix`, `pix + 1`, ..., `n` of them in ascending order (R56, D19); none if an array is too
short (R51). -/
def readTriplets (m : Memory) (r g b : ArrayRef) : Nat → Nat → Option (List Triplet)
  | 0, _ => some []
  | n + 1, pix =>
    match readTriplet m r g b pix, readTriplets m r g b n (pix + 1) with
    | some t, some ts => some (t :: ts)
    | _, _ => none

end Sys2Proof.Machine
end

