-- ==== Sys2Proof/Machine/Flags.lean ====
section
/-! DEFINITION. The one flag of the block, `btnState` (R26, R27), and its codes (R86), the classification that sets it
(R163) and the result codes of `ENC_SET` (R72). -/

namespace Sys2Proof.Machine

/-- The codes of `btnState` and of the result of `BTN_GET` (R86, D24). -/
def BtnState.code : BtnState → BitVec 2
  | .none => 0b00
  | .shortClick => 0b01
  | .longClick => 0b10

/-- The result codes of `ENC_SET`: `OK = 1`, `FAIL = 0` (R72, D24). -/
def statusCode (ok : Bool) : BitVec 1 := BitVec.ofBool ok

/-- Classification of a hold (R163): both comparisons strict, the long test nested inside the short test; a hold at or
below the short threshold leaves the flag as it was. -/
def classify (c : Config) (held : Nat) (old : BtnState) : BtnState :=
  if held > c.shortT then (if held > c.longT then .longClick else .shortClick) else old

/-- `btnState <- v`. -/
def setBtnState (v : BtnState) (s : State) : State := { s with btnState := v }

end Sys2Proof.Machine
end

