-- ==== Sys2Proof/Machine/Button.lean ====
section
/-! DEFINITION. The Button Click Classifier (42_button_classifier.md): the meanings of `ENC_ISR_B` and `BTN_GET`. -/

namespace Sys2Proof.Machine

/-- The edges of R160: a falling edge records the time (R161), a rising edge classifies the hold (R162, R163), and no
edge writes nothing (R164). -/
def buttonEdge (lvl : Bool) (t : Nat) (s : State) : State :=
  if s.prevBtn = true ∧ lvl = false then { s with pressStart := t }
  else if s.prevBtn = false ∧ lvl = true then
    setBtnState (classify s.cfg (heldTime s.cfg t s.pressStart) s.btnState) s
  else s

/-- `prevBtn <- lvl`, the last action of R160. -/
def storeLevel (lvl : Bool) (s : State) : State := { s with prevBtn := lvl }

/-- `ENC_ISR_B lvl, t` (R160). -/
def execEncIsrB (lvl : Bool) (t : Nat) (s : State) : Out :=
  inContext .interrupt s (.next (storeLevel lvl (buttonEdge lvl (timeOperand s.cfg t) s)))

/-- `BTN_GET` (R166): the pending state is read and cleared in one atomic step and delivered. -/
def execBtnGet (s : State) : Out :=
  inContext .foreground s (.next (deliver (.click s.btnState) (atomic (setBtnState .none) s)))

end Sys2Proof.Machine
end

