-- ==== Sys2Proof/Machine/Pixel.lean ====
section
/-! DEFINITION. The Pixel Transmitter (40_pixel_transmitter.md): the procedures `SendBit`, `SendByte`, `SendPixel`, `Show`
as the spec writes them, the interrupt discipline of a frame (R102), and the meanings of `PX_BEGIN`, `PX_UNIFORM` and
`PX_ARRAY`. -/

namespace Sys2Proof.Machine

/-! ### Internal procedures -/

/-- The symbol of a data bit (R73). -/
def bitSymbol (v : Bool) : Symbol := if v then .bit1 else .bit0

/-- `TxH_NS` of a data bit (R73). -/
def highNs (c : Config) (v : Bool) : Nat := if v then c.t1hNs else c.t0hNs

/-- `TxL_NS` of a data bit (R73). -/
def lowNs (c : Config) (v : Bool) : Nat := if v then c.t1lNs else c.t0lNs

/-- `SendBit(v)` (R104). -/
def sendBit (v : Bool) (s : State) : State :=
  let th := highNs s.cfg v
  let tl := lowNs s.cfg v
  let s := setTx (s.tx.withPhase .high) s
  let s := emitSeg true (s.cfg.cyc th) (delay (s.cfg.dly th) (drive true s))
  let s := setTx (s.tx.withPhase .low) s
  let s := emitSeg false (s.cfg.cyc tl) (delay (s.cfg.dly tl) (drive false s))
  emit (bitSymbol v) s

/-- `SendByte(v)`: "most-significant bit first" (R105). -/
def sendByte (v : Byte) (s : State) : State :=
  bitOrder.foldl (fun s bit => sendBit (byteBit v bit) (setTx (s.tx.withBit bit) s)) s

/-- `SendPixel(r, g, b)`: "green, then red, then blue" (R106). -/
def sendPixel (t : Triplet) (s : State) : State :=
  let s := sendByte t.g (setTx (s.tx.withCh .green) s)
  let s := sendByte t.r (setTx (s.tx.withCh .red) s)
  sendByte t.b (setTx (s.tx.withCh .blue) s)

/-- The loop over the pixels, ascending from pixel `pix` (R25, R101, R103). -/
def sendPixels : List Triplet → Nat → State → State
  | [], _, s => s
  | t :: ts, pix, s => sendPixels ts (pix + 1) (sendPixel t (setTx (.sending pix .green 7 .high) s))

/-- `Show()`: the frame latch (R107). -/
def showFrame (s : State) : State :=
  let s := setTx .latching s
  let s := waitAtLeast s.cfg.latchNs s
  let s := emit .latch (emitSeg false s.cfg.latchCyc s)
  setTx .idle s

/-- One frame: suspended from before the first bit until after the latch wait (R101, R102, R103). -/
def sendFrame (ts : List Triplet) (s : State) : State := atomic (fun s => showFrame (sendPixels ts 0 s)) s

/-- The preconditions of a transmit operation on the state and the parameters (R109 (b), (c)). -/
def canTransmit (s : State) (o : Out) : Out :=
  if s.doutOe = false then .refused .outputNotEnabled
  else if s.cfg.TimingOk then o
  else .refused .timingIllFormed

/-! ### Operations -/

/-- `PX_BEGIN` (R100): `DOUT_OE <- 1` and nothing else. -/
def execPxBegin (s : State) : Out :=
  inContext .foreground s (.next { s with doutOe := true })

/-- `PX_UNIFORM r, g, b` (R101): the same triplet to every pixel, then the latch. -/
def execPxUniform (r g b : Byte) (s : State) : Out :=
  inContext .foreground s (canTransmit s (.next (sendFrame (List.replicate s.cfg.k ⟨r, g, b⟩) s)))

/-- `PX_ARRAY r, g, b` (R103): pixel `i` is element `i` of the three arrays; a too-short array is refused (U1). -/
def execPxArray (r g b : ArrayRef) (s : State) : Out :=
  inContext .foreground s (canTransmit s (
    match readTriplets s.arrays r g b s.cfg.k 0 with
    | some ts => .next (sendFrame ts s)
    | none => .refused .shortArray))

end Sys2Proof.Machine
end

