-- ==== Sys2Proof/Machine/Quadrature.lean ====
section
/-! DEFINITION. The Quadrature Decoder (41_quadrature_decoder.md): the update of the counter by an increment, and the
meanings of `ENC_BEGIN`, `ENC_ISR_Q`, `ENC_GET` and `ENC_SET`. -/

namespace Sys2Proof.Machine

/-- Step 3 of R131: the pair (counter, increment) after the test at the upper limit. -/
def limitHigh (s : State) (counter inc : Int) : Int × Int :=
  if counter = s.counterMaxLimit ∧ inc > 0 then (if s.wrap then s.counterMinLimit else counter, 0)
  else (counter, inc)

/-- Step 4 of R131: the same at the lower limit. -/
def limitLow (s : State) (counter inc : Int) : Int × Int :=
  if counter = s.counterMinLimit ∧ inc < 0 then (if s.wrap then s.counterMaxLimit else counter, 0)
  else (counter, inc)

/-- Steps 3 to 5 of R131: the limits, wrap or clamp, then the (possibly zeroed) increment. -/
def applyIncrement (inc : Int) (s : State) : State :=
  let high := limitHigh s s.counter inc
  let low := limitLow s high.1 high.2
  { s with counter := low.1 + low.2 }

/-- Step 1 of R131: the history takes the new sample (R80). -/
def takeSample (a b : Bool) (s : State) : State := { s with hist := pushSample s.hist a b }

/-- `ENC_BEGIN` (R130): pull-ups on, pin-change interrupt enabled, nothing else. -/
def execEncBegin (s : State) : Out :=
  inContext .foreground s (.next { s with pue := ⟨true, true, true⟩, pcie := true })

/-- `ENC_ISR_Q a, b` (R131). -/
def execEncIsrQ (a b : Bool) (s : State) : Out :=
  let s' := takeSample a b s
  inContext .interrupt s (.next (applyIncrement (s'.cfg.lut s'.hist) s'))

/-- `ENC_GET` (R136): an atomic read of `counter`, delivered in detent units. -/
def execEncGet (s : State) : Out :=
  inContext .foreground s (.next (deliver (.detents (detents s.cfg s.counter)) (atomic id s)))

/-- The replacement of counter, limits and wrap flag by a successful `ENC_SET` (R140): both limits clamped into the
safe sub-range, then `value` against the clamped limits, then all three scaled. -/
def replaceCounter (value minLimit maxLimit : Int) (wrapArg : Bool) (s : State) : State :=
  let lo := clamp minLimit s.cfg.limLo s.cfg.limHi
  let hi := clamp maxLimit s.cfg.limLo s.cfg.limHi
  let v := clamp value lo hi
  { s with
    counterMinLimit := scale s.cfg lo
    counterMaxLimit := scale s.cfg hi
    counter := scale s.cfg v
    wrap := wrapArg }

/-- `ENC_SET value, minLimit, maxLimit, wrapArg` (R140): the failure test is made on the operands as given and writes
nothing. -/
def execEncSet (value minLimit maxLimit : Int) (wrapArg : Bool) (s : State) : Out :=
  inContext .foreground s (.next (
    if minLimit ≥ maxLimit then deliver (.status false) s
    else deliver (.status true) (atomic (replaceCounter value minLimit maxLimit wrapArg) s)))

end Sys2Proof.Machine
end

