-- ==== Sys2Proof/Machine/Rows.lean ====
section
/-! DEFINITION. The rows of the table that are no operation. The unassigned codes select none and are refused by name
(R89). A row of another format is a value an operation uses inside its step; its meaning is that part of the step
(DESIGN CHOICE, log entry 8): a lookup entry is steps 2 to 5 of `ENC_ISR_Q` with that entry (R131), a wire symbol is
`SendBit` or `Show` (R104, R107), a code of `btnState` is the write of it (R163, R166), a result code is its delivery
(R140). What is issued to the block is always one of the nine operations, so no step runs such a row by itself. -/

namespace Sys2Proof.Machine

/-! ### Unassigned codes (R89, U10) -/

/-- `OP` 0x3 selects no operation (R89). -/
def execUnassigned3 (_s : State) : Out := .refused (.unassignedOperation 0x3)

/-- `OP` 0xA selects no operation (R89). -/
def execUnassignedA (_s : State) : Out := .refused (.unassignedOperation 0xA)

/-- `OP` 0xB selects no operation (R89). -/
def execUnassignedB (_s : State) : Out := .refused (.unassignedOperation 0xB)

/-- `OP` 0xC selects no operation (R89). -/
def execUnassignedC (_s : State) : Out := .refused (.unassignedOperation 0xC)

/-- `OP` 0xD selects no operation (R89). -/
def execUnassignedD (_s : State) : Out := .refused (.unassignedOperation 0xD)

/-- `OP` 0xE selects no operation (R89). -/
def execUnassignedE (_s : State) : Out := .refused (.unassignedOperation 0xE)

/-- `OP` 0xF selects no operation (R89). -/
def execUnassignedF (_s : State) : Out := .refused (.unassignedOperation 0xF)

/-! ### Entries of the lookup table (R84, R131, R134) -/

/-- The update by entry `i`: its increment through steps 3 to 5 of R131, in the interrupt context, which alone reads
the table (R50). -/
def selectEntry (i : BitVec 4) (s : State) : Out :=
  inContext .interrupt s (.next (applyIncrement (s.cfg.lut i) s))

/-- Entry 0: 00 -> 00, no change (R84). -/
def execLut0 (s : State) : Out := selectEntry 0 s

/-- Entry 1: 00 -> 01, backward (R84). -/
def execLut1 (s : State) : Out := selectEntry 1 s

/-- Entry 2: 00 -> 10, forward (R84). -/
def execLut2 (s : State) : Out := selectEntry 2 s

/-- Entry 3: 00 -> 11, both changed (R84). -/
def execLut3 (s : State) : Out := selectEntry 3 s

/-- Entry 4: 01 -> 00, forward (R84). -/
def execLut4 (s : State) : Out := selectEntry 4 s

/-- Entry 5: 01 -> 01, no change (R84). -/
def execLut5 (s : State) : Out := selectEntry 5 s

/-- Entry 6: 01 -> 10, both changed (R84). -/
def execLut6 (s : State) : Out := selectEntry 6 s

/-- Entry 7: 01 -> 11, backward (R84). -/
def execLut7 (s : State) : Out := selectEntry 7 s

/-- Entry 8: 10 -> 00, backward (R84). -/
def execLut8 (s : State) : Out := selectEntry 8 s

/-- Entry 9: 10 -> 01, both changed (R84). -/
def execLut9 (s : State) : Out := selectEntry 9 s

/-- Entry 10: 10 -> 10, no change (R84). -/
def execLut10 (s : State) : Out := selectEntry 10 s

/-- Entry 11: 10 -> 11, forward (R84). -/
def execLut11 (s : State) : Out := selectEntry 11 s

/-- Entry 12: 11 -> 00, both changed (R84). -/
def execLut12 (s : State) : Out := selectEntry 12 s

/-- Entry 13: 11 -> 01, forward (R84). -/
def execLut13 (s : State) : Out := selectEntry 13 s

/-- Entry 14: 11 -> 10, backward (R84). -/
def execLut14 (s : State) : Out := selectEntry 14 s

/-- Entry 15: 11 -> 11, no change (R84). -/
def execLut15 (s : State) : Out := selectEntry 15 s

/-! ### Wire symbols (R73, R74, R104, R107) -/

/-- What the spec requires where a symbol is sent: the foreground transmits (R101), the line is driven (R109 (b)) and
interrupts are suspended ("Requires `IE = 0`", R104). -/
def whileSuspended (s : State) (o : Out) : Out :=
  inContext .foreground s (
    if s.doutOe = false then .refused .outputNotEnabled
    else if s.ie then .refused .interruptsNotSuspended
    else o)

/-- `SendBit` sets `tx.phase`, so a bit of a frame is being sent (R25, R104). -/
def duringFrame (s : State) (o : Out) : Out :=
  if s.tx.isSending then o else .refused .noFrameInProgress

/-- `BIT0` (R73): `SendBit(0)` (R104). -/
def execBit0 (s : State) : Out := whileSuspended s (duringFrame s (.next (sendBit false s)))

/-- `BIT1` (R73): `SendBit(1)` (R104). -/
def execBit1 (s : State) : Out := whileSuspended s (duringFrame s (.next (sendBit true s)))

/-- `LATCH` (R74): `Show()` (R107). -/
def execLatch (s : State) : Out := whileSuspended s (.next (showFrame s))

/-! ### Codes of `btnState` (R86, R90) -/

/-- `NONE`: the clearing write of `BTN_GET`, made by the foreground with interrupts suspended (R166, R59). -/
def execBtnStateNone (s : State) : Out :=
  inContext .foreground s (if s.ie then .refused .interruptsNotSuspended else .next (setBtnState .none s))

/-- `SHORT_CLICK`: the write of `ENC_ISR_B` for a short hold (R163). -/
def execBtnStateShortClick (s : State) : Out := inContext .interrupt s (.next (setBtnState .shortClick s))

/-- `LONG_CLICK`: the write of `ENC_ISR_B` for a long hold (R163). -/
def execBtnStateLongClick (s : State) : Out := inContext .interrupt s (.next (setBtnState .longClick s))

/-- Code 3: "never produced by any rule and never returned" (R90, U11). -/
def execBtnStateUnreachable (_s : State) : Out := .refused .unreachableCode

/-! ### Result codes of `ENC_SET` (R72, R140) -/

/-- `FAIL`: the failure return of `ENC_SET`, which writes nothing else (R140, R141). -/
def execResultFail (s : State) : Out := inContext .foreground s (.next (deliver (.status false) s))

/-- `OK`: the success return of `ENC_SET` (R140). -/
def execResultOk (s : State) : Out := inContext .foreground s (.next (deliver (.status true) s))

end Sys2Proof.Machine
end

