-- ==== Sys2Proof/Machine/Dispatch.lean ====
section
/-! DEFINITION. The dispatch of an instruction to its meaning, one arm per constructor. -/

namespace Sys2Proof.Machine

def exec (i : Instr) (s : State) : Host.Outcome State Fault Refusal :=
  match i with
  | .pxBegin => Sys2Proof.Machine.execPxBegin s
  | .pxUniform r g b => Sys2Proof.Machine.execPxUniform r g b s
  | .pxArray r g b => Sys2Proof.Machine.execPxArray r g b s
  | .encBegin => Sys2Proof.Machine.execEncBegin s
  | .encGet => Sys2Proof.Machine.execEncGet s
  | .encSet value lo hi wrap => Sys2Proof.Machine.execEncSet value lo hi wrap s
  | .btnGet => Sys2Proof.Machine.execBtnGet s
  | .encIsrQ a b => Sys2Proof.Machine.execEncIsrQ a b s
  | .encIsrB lvl t => Sys2Proof.Machine.execEncIsrB lvl t s
  | .unassigned3 => Sys2Proof.Machine.execUnassigned3 s
  | .unassignedA => Sys2Proof.Machine.execUnassignedA s
  | .unassignedB => Sys2Proof.Machine.execUnassignedB s
  | .unassignedC => Sys2Proof.Machine.execUnassignedC s
  | .unassignedD => Sys2Proof.Machine.execUnassignedD s
  | .unassignedE => Sys2Proof.Machine.execUnassignedE s
  | .unassignedF => Sys2Proof.Machine.execUnassignedF s
  | .lut0 => Sys2Proof.Machine.execLut0 s
  | .lut1 => Sys2Proof.Machine.execLut1 s
  | .lut2 => Sys2Proof.Machine.execLut2 s
  | .lut3 => Sys2Proof.Machine.execLut3 s
  | .lut4 => Sys2Proof.Machine.execLut4 s
  | .lut5 => Sys2Proof.Machine.execLut5 s
  | .lut6 => Sys2Proof.Machine.execLut6 s
  | .lut7 => Sys2Proof.Machine.execLut7 s
  | .lut8 => Sys2Proof.Machine.execLut8 s
  | .lut9 => Sys2Proof.Machine.execLut9 s
  | .lut10 => Sys2Proof.Machine.execLut10 s
  | .lut11 => Sys2Proof.Machine.execLut11 s
  | .lut12 => Sys2Proof.Machine.execLut12 s
  | .lut13 => Sys2Proof.Machine.execLut13 s
  | .lut14 => Sys2Proof.Machine.execLut14 s
  | .lut15 => Sys2Proof.Machine.execLut15 s
  | .bit0 => Sys2Proof.Machine.execBit0 s
  | .bit1 => Sys2Proof.Machine.execBit1 s
  | .latch => Sys2Proof.Machine.execLatch s
  | .btnStateNone => Sys2Proof.Machine.execBtnStateNone s
  | .btnStateShortClick => Sys2Proof.Machine.execBtnStateShortClick s
  | .btnStateLongClick => Sys2Proof.Machine.execBtnStateLongClick s
  | .btnStateUnreachable => Sys2Proof.Machine.execBtnStateUnreachable s
  | .resultFail => Sys2Proof.Machine.execResultFail s
  | .resultOk => Sys2Proof.Machine.execResultOk s

end Sys2Proof.Machine
end

