-- ==== Sys2Proof/Machine/Agents.lean ====
section
/-! DEFINITION. The three agents (R18) and the steps they take: the handler run (R190), the issue of an operation by the
context that is executing (R71), the changes the environment makes (R93, R186), and what happens when nothing is
scheduled (R187). `step` only calls these. -/

namespace Sys2Proof.Machine

/-- One run of the handler (R190): `PCPEND <- 0`; all inputs sampled at that instant; both callbacks, every time
(R191); then the foreground continues (R194). -/
def runHandler (s : State) : Out :=
  let entered := enterHandler s
  andThen (execEncIsrQ entered.pinA entered.pinB entered) fun s1 =>
  andThen (execEncIsrB entered.pinBtn entered.now s1) fun s2 =>
  .next (leaveHandler s2)

/-- An `IRQ` step is legal only when the handler is enabled (R93, R187). -/
def irqStep (s : State) : Out := if s.handlerEnabled then runHandler s else .refused .handlerNotEnabled

/-- The executing context issues the operation encoded by the bits. The operation is read off the front: it has one
length (R70), and padding after it is not part of it. -/
def issueOperation (bits : Bits) (s : State) : Out :=
  match decode s.cfg .operation bits with
  | .ok (i, _) => exec i s
  | .error _ => .fault .truncatedOperation

/-- The step an event stands for. -/
def runEvent (e : Event) (s : State) : Out :=
  match e with
  | .issue bits => issueOperation bits s
  | .irq => irqStep s
  | .pin l v => .next (setPin l v s)
  | .release l => .next (releasePin l s)
  | .time t => .next (setTime t s)
  | .callerWrite r bytes => .next (callerStore r bytes s)

/-- Nothing is scheduled: a handler run that was left open ends, an enabled handler takes its step ("a final state with
`PCPEND = 1` and `IE = 1` is not quiescent", R187), and otherwise the machine idles (log entry 3). -/
def idleStep (s : State) : Out :=
  match s.context with
  | .interrupt => .next (leaveHandler s)
  | .foreground => if s.handlerEnabled then runHandler s else .next s

/-- Schedule an operation as the very next step, issued by the context that may issue it (R71, log entry 3). -/
def scheduleWord (s : State) (nbits w : Nat) : State :=
  let bits := tableBits s.cfg nbits w
  let ctx := match decode s.cfg .operation bits with
    | .ok (i, _) => i.issuer
    | .error _ => s.context
  { s with script := .issue bits :: s.script, context := ctx }

end Sys2Proof.Machine
end

