-- ==== Sys2Proof/Machine/Step.lean ====
section
/-! DEFINITION. One step of the machine: the next scheduled event is taken off the script and performed (R62). -/

namespace Sys2Proof.Machine

/-- One step. -/
def step (s : State) : Host.Outcome State Fault Refusal :=
  match s.script with
  | [] => idleStep s
  | e :: rest => runEvent e { s with script := rest }

/-- The table word of `nbits` bits scheduled so that the next step issues it (log entry 3). -/
def State.withFetchWord (s : State) (nbits w : Nat) : State := scheduleWord s nbits w

end Sys2Proof.Machine
end

