-- ==== Sys2Proof/Safety.lean ====
section
/-! DEFINITION. The terms the statements use: the invariant of a state between steps, what a frame puts on the wire and
does action by action, the table of R134, and the moves of the encoder. None of them is used by the machine. -/

namespace Sys2Proof

/-! ### Rows and contexts -/

/-- The nine operations of R87: what can be issued. -/
def Instr.isOperation : Instr → Bool
  | .pxBegin | .pxUniform .. | .pxArray .. | .encBegin | .encGet | .encSet .. | .btnGet | .encIsrQ ..
  | .encIsrB .. => true
  | .unassigned3 | .unassignedA | .unassignedB | .unassignedC | .unassignedD | .unassignedE | .unassignedF => false
  | .lut0 | .lut1 | .lut2 | .lut3 | .lut4 | .lut5 | .lut6 | .lut7 | .lut8 | .lut9 | .lut10 | .lut11 | .lut12
  | .lut13 | .lut14 | .lut15 => false
  | .bit0 | .bit1 | .latch => false
  | .btnStateNone | .btnStateShortClick | .btnStateLongClick | .btnStateUnreachable => false
  | .resultFail | .resultOk => false

/-- The row of the lookup table with index `i` (R84). -/
def lutRow (i : BitVec 4) : Instr :=
  [.lut0, .lut1, .lut2, .lut3, .lut4, .lut5, .lut6, .lut7, .lut8, .lut9, .lut10, .lut11, .lut12, .lut13, .lut14,
    .lut15].getD i.toNat .lut0

/-- The transmit operations. -/
def Instr.isTransmit : Instr → Bool
  | .pxUniform .. | .pxArray .. => true
  | .pxBegin | .encBegin | .encGet | .encSet .. | .btnGet | .encIsrQ .. | .encIsrB .. => false
  | .unassigned3 | .unassignedA | .unassignedB | .unassignedC | .unassignedD | .unassignedE | .unassignedF => false
  | .lut0 | .lut1 | .lut2 | .lut3 | .lut4 | .lut5 | .lut6 | .lut7 | .lut8 | .lut9 | .lut10 | .lut11 | .lut12
  | .lut13 | .lut14 | .lut15 => false
  | .bit0 | .bit1 | .latch => false
  | .btnStateNone | .btnStateShortClick | .btnStateLongClick | .btnStateUnreachable => false
  | .resultFail | .resultOk => false

end Sys2Proof

namespace Sys2Proof.Machine

/-! ### The invariant -/

/-- The line level after a waveform trace: "the last level emitted, and 0 before the first" (R39). -/
def traceLevel (wire : List Segment) : Bool := (wire.getLast?.map Segment.level).getD false

/-- What holds of a state between two steps (R24, R30, R33, R35, R193, R196, R199). -/
structure State.Inv (s : State) : Prop where
  config : s.cfg.Wf
  lower : s.counterMinLimit ≤ s.counter
  upper : s.counter ≤ s.counterMaxLimit
  minRange : s.cfg.intMin ≤ s.counterMinLimit
  maxRange : s.counterMaxLimit ≤ s.cfg.intMax
  pressRange : s.pressStart < 2 ^ s.cfg.tw
  nowRange : s.now < 2 ^ s.cfg.tw
  foreground : s.context = .foreground
  enabled : s.ie = true
  idle : s.tx = .idle
  low : s.dout = false
  trace : traceLevel s.wire = s.dout
  memory : s.arrays.wf

/-! ### What a frame puts on the wire (R54 to R56, R73 to R75) -/

/-- The eight symbols of a byte, most significant bit first (R54, R75). -/
def byteSymbols (v : Byte) : List Symbol :=
  (List.range 8).map fun j => if v.getMsbD j then Symbol.bit1 else Symbol.bit0

/-- The 24 symbols of a pixel: green, red, blue (R55, R75). -/
def pixelSymbols (t : Triplet) : List Symbol := byteSymbols t.g ++ byteSymbols t.r ++ byteSymbols t.b

/-- The symbols of a frame: the pixels in order, then one latch (R75). -/
def frameSymbols (ts : List Triplet) : List Symbol := ts.flatMap pixelSymbols ++ [.latch]

/-- The segments of a symbol (R73, R74, R81, R82). -/
def symbolSegments (c : Config) : Symbol → List Segment
  | .bit0 => [⟨true, c.cyc c.t0hNs⟩, ⟨false, c.cyc c.t0lNs⟩]
  | .bit1 => [⟨true, c.cyc c.t1hNs⟩, ⟨false, c.cyc c.t1lNs⟩]
  | .latch => [⟨false, c.latchCyc⟩]

/-- The segments of a frame. -/
def frameSegments (c : Config) (ts : List Triplet) : List Segment := (frameSymbols ts).flatMap (symbolSegments c)

/-- The cycles a waveform takes. -/
def wireCycles (wire : List Segment) : Nat := (wire.map Segment.cycles).sum

/-- The colours of pixels 0 to k-1 in three arrays (R79). -/
def arrayPixels (m : Memory) (r g b : ArrayRef) (k : Nat) : List Triplet :=
  (List.range k).map fun i => ⟨(m.array r).getD i 0, (m.array g).getD i 0, (m.array b).getD i 0⟩

/-! ### The actions of a frame (R102, R104 to R107) -/

/-- What the pseudocode of a frame does, one primitive or write of `tx` at a time. -/
abbrev FrameAction := State → State

/-- The state after some actions, in order. -/
def perform (actions : List FrameAction) (s : State) : State := actions.foldl (fun s act => act s) s

/-- The lines of `SendBit(v)` (R104). -/
def bitActions (c : Config) (v : Bool) : List FrameAction :=
  [fun s => setTx (s.tx.withPhase .high) s,
   drive true, delay (c.dly (highNs c v)), emitSeg true (c.cyc (highNs c v)),
   fun s => setTx (s.tx.withPhase .low) s,
   drive false, delay (c.dly (lowNs c v)), emitSeg false (c.cyc (lowNs c v)),
   emit (bitSymbol v)]

/-- The lines of `SendByte(v)` (R105). -/
def byteActions (c : Config) (v : Byte) : List FrameAction :=
  bitOrder.flatMap fun bit => (fun s => setTx (s.tx.withBit bit) s) :: bitActions c (byteBit v bit)

/-- The lines of `SendPixel(r, g, b)` (R106). -/
def pixelActions (c : Config) (t : Triplet) : List FrameAction :=
  (fun s => setTx (s.tx.withCh .green) s) :: byteActions c t.g ++
  (fun s => setTx (s.tx.withCh .red) s) :: byteActions c t.r ++
  (fun s => setTx (s.tx.withCh .blue) s) :: byteActions c t.b

/-- The pixels in ascending order, from pixel `pix` (R101, R103). -/
def pixelsActions (c : Config) : List Triplet → Nat → List FrameAction
  | [], _ => []
  | t :: ts, pix => setTx (.sending pix .green 7 .high) :: pixelActions c t ++ pixelsActions c ts (pix + 1)

/-- The lines of `Show()` (R107). -/
def showActions (c : Config) : List FrameAction :=
  [setTx .latching, waitAtLeast c.latchNs, emitSeg false c.latchCyc, emit .latch, setTx .idle]

/-- Everything between the `SUSPEND()` and the `RESUME()` of a frame (R101, R103). -/
def frameActions (c : Config) (ts : List Triplet) : List FrameAction := pixelsActions c ts 0 ++ showActions c

/-! ### The table of R134 -/

/-- The new counter for an increment, by the table of R134. -/
def counterAfter (s : State) (inc : Int) : Int :=
  if inc = 0 then s.counter
  else if inc > 0 then
    (if s.counter < s.counterMaxLimit then s.counter + 1
     else if s.wrap then s.counterMinLimit else s.counterMaxLimit)
  else
    (if s.counterMinLimit < s.counter then s.counter - 1
     else if s.wrap then s.counterMaxLimit else s.counterMinLimit)

/-! ### Moves of the encoder (R84, R135) -/

/-- One of the two encoder lines. -/
inductive EncLine where
  | a
  | b
  deriving DecidableEq, Repr

/-- The direction in which one line changing moves a sample with levels `a`, `b`: +1 along the cycle 00, 10, 11, 01, 00
of samples `b :: a`, -1 along 00, 01, 11, 10, 00 (R84). -/
def moveSign (a b : Bool) : EncLine → Int
  | .a => if a = b then -1 else 1
  | .b => if a = b then 1 else -1

/-- The line that moves a sample to its successor in the forward cycle (R94, `FWD`), or in the backward one (`BWD`). -/
def turnLine (forward a b : Bool) : EncLine := if (a == b) = forward then .b else .a

/-- The levels after a line changes. -/
def moveLevels (a b : Bool) : EncLine → Bool × Bool
  | .a => (!a, b)
  | .b => (a, !b)

/-- The environment changes one line. -/
def moveEvent (a b : Bool) : EncLine → Event
  | .a => .pin .a (!a)
  | .b => .pin .b (!b)

/-- Legal single steps with one handler run each (R135). -/
def turnEvents : Bool → Bool → List EncLine → List Event
  | _, _, [] => []
  | a, b, l :: ls => moveEvent a b l :: .irq :: turnEvents (moveLevels a b l).1 (moveLevels a b l).2 ls

/-- `N - M`: net forward moves of a sequence (R135). -/
def netTurn : Bool → Bool → List EncLine → Int
  | _, _, [] => 0
  | a, b, l :: ls => moveSign a b l + netTurn (moveLevels a b l).1 (moveLevels a b l).2 ls

/-- `n` steps in one direction with no handler run between them (R188). -/
def sameWayMoves (forward : Bool) : Nat → Bool → Bool → List Event
  | 0, _, _ => []
  | n + 1, a, b =>
    let l := turnLine forward a b
    moveEvent a b l :: sameWayMoves forward n (moveLevels a b l).1 (moveLevels a b l).2

/-- The history holds the real sample of the lines (R135, last sentence). -/
def State.inSync (s : State) : Prop := s.hist.extractLsb' 0 2 = sample s.pinA s.pinB

end Sys2Proof.Machine
end

