-- ==== Sys2Proof/Certificates/Slice0/Obligations.lean ====
section
/-! DEFINITION. The statements for the provers. Each docstring names the rule of spec/ it formalises. A value of the
model's own (log entries) is named as such. -/

open Sys2Proof Sys2Proof.Machine

/-! ### Reset -/

/-- The reset table of R40, for every configuration. Its values are the spec's decisions D8 to D11 and D36. -/
def Obligations.ResetHoldsTheResetTable : Prop :=
  ∀ c : Config, let s := State.resetWith c
    s.counter = c.resetCounter ∧ s.counterMinLimit = c.resetMin ∧ s.counterMaxLimit = c.resetMax ∧
    s.wrap = c.resetWrap ∧ s.hist = c.resetHist ∧ s.btnState = .none ∧ s.pressStart = 0 ∧ s.prevBtn = true ∧
    s.doutOe = false ∧ s.dout = false ∧ s.pue = ⟨false, false, false⟩ ∧ s.pcie = false ∧ s.pcpend = false ∧
    s.ie = true ∧ s.tx = .idle ∧ s.sym = [] ∧ s.wire = [] ∧ s.context = .foreground ∧ s.handlerEnabled = false

/-- The invariant holds at reset, for every well-formed configuration and for the one of `State.reset`, which is the
model's choice (log entry 1). -/
def Obligations.ResetMeetsTheInvariant : Prop :=
  (∀ c : Config, c.Wf → (State.resetWith c).Inv) ∧ State.reset.Inv

/-! ### Encodings -/

/-- Decoding an encoded well-formed instruction gives it back and leaves the bits after it, for every row of the table
and every operand its fields admit (R70, R72, R84, R86, R87, R89). The width of an array reference is the model's
(log entry 2). -/
def Obligations.DecodeOfEncodeIsTheInstruction : Prop :=
  ∀ (c : Config) (i : Instr) (rest : Bits), 1 ≤ c.w → i.wellFormed c = true →
    decode c i.format (encode c i ++ rest) = .ok (i, rest)

/-- Each encoding has one meaning: what the decoder reads is well formed, of that format, and its encoding is the bits
read (R70, R87). -/
def Obligations.EncodeOfDecodeIsTheBits : Prop :=
  ∀ (c : Config) (f : Format) (bits : Bits) (i : Instr) (rest : Bits), 1 ≤ c.w → decode c f bits = .ok (i, rest) →
    i.format = f ∧ i.wellFormed c = true ∧ bits = encode c i ++ rest

/-- Words written out from R72 and R87, most of them from the programs of 95_test_vectors.md, with W = 16 and
TW = 32. -/
def Obligations.WordsOfTheProgramsDecode : Prop :=
  let d := decode Config.illustrative .operation
  d [false, false, false, false] = .ok (.pxBegin, []) ∧
  d (bitsOfNat 28 0x1123456) = .ok (.pxUniform 0x12 0x34 0x56, []) ∧
  d (bitsOfNat 52 0x2000100020003) = .ok (.pxArray 1 2 3, []) ∧
  d [false, true, false, false] = .ok (.encBegin, []) ∧
  d [false, true, false, true] = .ok (.encGet, []) ∧
  d (bitsOfNat 52 0x60000FFF6000A ++ [false]) = .ok (.encSet 0 (-10) 10 false, []) ∧
  d (bitsOfNat 52 0x6FFF6FFF6000A ++ [true]) = .ok (.encSet (-10) (-10) 10 true, []) ∧
  d [false, true, true, true] = .ok (.btnGet, []) ∧
  d [true, false, false, false, true, false] = .ok (.encIsrQ true false, []) ∧
  d ([true, false, false, true, false] ++ bitsOfNat 32 0x00000064) = .ok (.encIsrB false 100, [])

/-! ### The step -/

/-- The next scheduled operation is decoded and executed, and nothing else happens: the script alone moves on. Bits too
short for an operation fault. How a program is scheduled is the model's (log entry 3). -/
def Obligations.StepRunsTheIssuedOperation : Prop :=
  ∀ (s : State) (bits : Bits) (rest : List Event), s.script = .issue bits :: rest →
    (∀ i tail, decode s.cfg .operation bits = .ok (i, tail) → step s = exec i { s with script := rest }) ∧
    (∀ e, decode s.cfg .operation bits = .error e → step s = .fault .truncatedOperation)

/-- A table word placed by `withFetchWord` is what the next step executes, in the context that may issue it (the model's
scheduling, log entry 3). -/
def Obligations.FetchWordIsExecutedNext : Prop :=
  ∀ (s : State) (nbits w : Nat) (i : Instr) (tail : Bits),
    decode s.cfg .operation (tableBits s.cfg nbits w) = .ok (i, tail) →
    step (s.withFetchWord nbits w) = exec i { s with context := i.issuer }

/-- With nothing scheduled, an enabled handler takes its step, as R187 asks of such a state, and otherwise the machine
idles (the model's choice, log entry 3). -/
def Obligations.UnscheduledHandlerTakesItsStep : Prop :=
  ∀ s : State, s.script = [] → s.context = .foreground →
    (s.handlerEnabled = true → step s = step { s with script := [.irq] }) ∧
    (s.handlerEnabled = false → step s = .next s)

/-- Every step from a state between steps keeps the invariant, whatever is scheduled (R24, R30, R33, R193, R196). -/
def Obligations.StepKeepsTheInvariant : Prop :=
  ∀ s t : State, s.Inv → step s = .next t → t.Inv

/-! ### What is refused -/

/-- R89: the unassigned codes decode to rows that select no operation, refused by name in every state. -/
def Obligations.UnassignedCodesAreRefused : Prop :=
  (∀ s : State,
    exec .unassigned3 s = .refused (.unassignedOperation 0x3) ∧ exec .unassignedA s = .refused (.unassignedOperation 0xA) ∧
    exec .unassignedB s = .refused (.unassignedOperation 0xB) ∧ exec .unassignedC s = .refused (.unassignedOperation 0xC) ∧
    exec .unassignedD s = .refused (.unassignedOperation 0xD) ∧ exec .unassignedE s = .refused (.unassignedOperation 0xE) ∧
    exec .unassignedF s = .refused (.unassignedOperation 0xF)) ∧
  (∀ (c : Config) (rest : Bits),
    decode c .operation (bitsOfNat 4 0x3 ++ rest) = .ok (.unassigned3, rest) ∧
    decode c .operation (bitsOfNat 4 0xA ++ rest) = .ok (.unassignedA, rest) ∧
    decode c .operation (bitsOfNat 4 0xB ++ rest) = .ok (.unassignedB, rest) ∧
    decode c .operation (bitsOfNat 4 0xC ++ rest) = .ok (.unassignedC, rest) ∧
    decode c .operation (bitsOfNat 4 0xD ++ rest) = .ok (.unassignedD, rest) ∧
    decode c .operation (bitsOfNat 4 0xE ++ rest) = .ok (.unassignedE, rest) ∧
    decode c .operation (bitsOfNat 4 0xF ++ rest) = .ok (.unassignedF, rest))

/-- R90: code 3 of `btnState` is refused in every state, and no value of the flag has that code. -/
def Obligations.UnreachableButtonCodeIsRefused : Prop :=
  (∀ s : State, exec .btnStateUnreachable s = .refused .unreachableCode) ∧ ∀ b : BtnState, b.code ≠ 0b11

/-- R71: the seven software-facing operations are refused in the interrupt context, the two callbacks in the
foreground. -/
def Obligations.WrongContextIsRefused : Prop :=
  (∀ (i : Instr) (s : State), i.isOperation = true → (∀ a b, i ≠ .encIsrQ a b) → (∀ lvl t, i ≠ .encIsrB lvl t) →
    s.context = .interrupt → exec i s = .refused .wrongContext) ∧
  (∀ (a b : Bool) (s : State), s.context = .foreground → exec (.encIsrQ a b) s = .refused .wrongContext) ∧
  (∀ (lvl : Bool) (t : Nat) (s : State), s.context = .foreground →
    exec (.encIsrB lvl t) s = .refused .wrongContext)

/-- R109 (b): in the foreground a transmit operation is refused while the line is not driven. That it is also refused with
ill-formed timing parameters, which R109 (c) only lists as a precondition, is the model's reading (log entry 13). -/
def Obligations.TransmitNeedsItsPreconditions : Prop :=
  ∀ (i : Instr) (s : State), i.isTransmit = true → s.context = .foreground →
    (s.doutOe = false → exec i s = .refused .outputNotEnabled) ∧
    (s.doutOe = true → ¬ s.cfg.TimingOk → exec i s = .refused .timingIllFormed)

/-- R180: no instruction faults, in any state. -/
def Obligations.ExecNeverFaults : Prop :=
  ∀ (i : Instr) (s : State) (f : Fault), exec i s ≠ .fault f

/-! ### The Pixel Transmitter -/

/-- R100: `PX_BEGIN` sets `DOUT_OE` and leaves everything else, in particular `DOUT`, `IE` and the traces. -/
def Obligations.PxBeginDrivesTheLine : Prop :=
  (∀ c, encode c .pxBegin = [false, false, false, false]) ∧
  ∀ s : State,
    (s.context = .foreground → exec .pxBegin s = .next { s with doutOe := true }) ∧
    (s.context = .interrupt → exec .pxBegin s = .refused .wrongContext)

/-- R114 and R155: each `begin` twice is each `begin` once, from every state. -/
def Obligations.BeginIsIdempotent : Prop :=
  ∀ s t : State,
    (exec .pxBegin s = .next t → exec .pxBegin t = .next t) ∧
    (exec .encBegin s = .next t → exec .encBegin t = .next t)

/-- R101: the whole effect of `PX_UNIFORM`: K times the 24 symbols of green, red, blue, each most significant bit
first, with their segments, then the latch; `IE` and `DOUT` end at 1 and 0, `tx` at `IDLE`, and nothing else changes. -/
def Obligations.PxUniformSendsTheFrame : Prop :=
  (∀ c r g b, encode c (.pxUniform r g b) =
    [false, false, false, true] ++ bitsOfNat 8 r.toNat ++ bitsOfNat 8 g.toNat ++ bitsOfNat 8 b.toNat) ∧
  ∀ (r g b : Byte) (s : State), s.context = .foreground → s.doutOe = true → s.cfg.TimingOk →
    exec (.pxUniform r g b) s = .next { s with
      ie := true
      dout := false
      tx := .idle
      sym := s.sym ++ (List.replicate s.cfg.k (byteSymbols g ++ byteSymbols r ++ byteSymbols b)).flatten ++ [.latch]
      wire := s.wire ++ frameSegments s.cfg (List.replicate s.cfg.k ⟨r, g, b⟩) }

/-- R103: the whole effect of `PX_ARRAY`: pixel `i` is element `i` of the three arrays, for `i` from 0 to K-1, and an
array shorter than K is refused. Elements from K on play no part, and the arrays are unchanged. (The numeric form of a
reference is the model's, log entry 2.) -/
def Obligations.PxArraySendsTheFrame : Prop :=
  (∀ c r g b, encode c (.pxArray r g b) =
    [false, false, true, false] ++ bitsOfNat c.refW r ++ bitsOfNat c.refW g ++ bitsOfNat c.refW b) ∧
  ∀ (r g b : ArrayRef) (s : State), s.context = .foreground → s.doutOe = true → s.cfg.TimingOk →
    (s.cfg.k ≤ (s.arrays.array r).length → s.cfg.k ≤ (s.arrays.array g).length →
      s.cfg.k ≤ (s.arrays.array b).length →
      exec (.pxArray r g b) s = .next { s with
        ie := true
        dout := false
        tx := .idle
        sym := s.sym ++ frameSymbols (arrayPixels s.arrays r g b s.cfg.k)
        wire := s.wire ++ frameSegments s.cfg (arrayPixels s.arrays r g b s.cfg.k) }) ∧
    ((s.arrays.array r).length < s.cfg.k ∨ (s.arrays.array g).length < s.cfg.k ∨
      (s.arrays.array b).length < s.cfg.k → exec (.pxArray r g b) s = .refused .shortArray)

/-- R103, corner case: arrays constant over the strip give the same step as `PX_UNIFORM` with those values. -/
def Obligations.ConstantArraysActAsUniform : Prop :=
  ∀ (ra ga ba : ArrayRef) (r g b : Byte) (s : State), s.context = .foreground → s.doutOe = true → s.cfg.TimingOk →
    (∀ i < s.cfg.k, memRead s.arrays ra i = some r ∧ memRead s.arrays ga i = some g ∧ memRead s.arrays ba i = some b) →
    exec (.pxArray ra ga ba) s = exec (.pxUniform r g b) s

/-- R102, for the frame the two operations run: `PX_UNIFORM` and `PX_ARRAY` are one `SUSPEND()`, the pixels, `Show()` and
one `RESUME()`. What stands between the two is the sequence of actions of R104 to R107, and before it, after it and
between any two of its actions (at every `Drive` and `Delay` and in the latch wait) `IE = 0` and no handler run is legal.
`IE = 1` when the operation returns. (Ill-formed timing, shut out here, is refused: log entry 13.) -/
def Obligations.InterruptsStaySuspendedInAFrame : Prop :=
  ∀ s : State, s.context = .foreground → s.doutOe = true → s.cfg.TimingOk →
    let frame (ts : List Triplet) : State := resume (showFrame (sendPixels ts 0 (suspend s)))
    (∀ r g b, exec (.pxUniform r g b) s = .next (frame (List.replicate s.cfg.k ⟨r, g, b⟩))) ∧
    (∀ r g b, s.cfg.k ≤ (s.arrays.array r).length → s.cfg.k ≤ (s.arrays.array g).length →
      s.cfg.k ≤ (s.arrays.array b).length →
      exec (.pxArray r g b) s = .next (frame (arrayPixels s.arrays r g b s.cfg.k))) ∧
    ∀ ts : List Triplet,
      (frame ts).ie = true ∧
      showFrame (sendPixels ts 0 (suspend s)) = perform (frameActions s.cfg ts) (suspend s) ∧
      ∀ (n : Nat) (rest : List Event), let m := perform ((frameActions s.cfg ts).take n) (suspend s)
        m.ie = false ∧ m.handlerEnabled = false ∧
        step { m with script := .irq :: rest } = .refused .handlerNotEnabled

/-- R113: the end state of a transmit operation. The traces, `IE`, `DOUT` and `tx` are all it writes; every byte of the
caller's arrays reads as before. -/
def Obligations.TransmitEndState : Prop :=
  ∀ (i : Instr) (s t : State), i.isTransmit = true → exec i s = .next t →
    t = { s with ie := true, dout := false, tx := .idle, sym := t.sym, wire := t.wire } ∧
    t.doutOe = true ∧ t.sym.length = s.sym.length + 24 * s.cfg.k + 1 ∧
    ∀ r j, memRead t.arrays r j = memRead s.arrays r j

/-- R110: with `n1` one bits and `n0` zero bits in the frame, the waveform is longer by exactly the stated sum of
cycles, which R111 reads as a minimum. -/
def Obligations.FrameDurationIsTheFormula : Prop :=
  ∀ (i : Instr) (s t : State), i.isTransmit = true → exec i s = .next t →
    ∃ n1 n0 : Nat, n1 + n0 = 24 * s.cfg.k ∧
      t.sym.count .bit1 = s.sym.count .bit1 + n1 ∧ t.sym.count .bit0 = s.sym.count .bit0 + n0 ∧
      t.sym.count .latch = s.sym.count .latch + 1 ∧
      wireCycles t.wire = wireCycles s.wire + n1 * (s.cfg.cyc s.cfg.t1hNs + s.cfg.cyc s.cfg.t1lNs) +
        n0 * (s.cfg.cyc s.cfg.t0hNs + s.cfg.cyc s.cfg.t0lNs) + s.cfg.latchCyc

/-- R115: the symbols a transmit operation appends depend only on its operands, the contents of the arrays and K. -/
def Obligations.FramesAreIndependent : Prop :=
  ∀ (i : Instr) (s s' t t' : State), i.isTransmit = true → s.cfg.k = s'.cfg.k →
    (∀ r, s.arrays.array r = s'.arrays.array r) → exec i s = .next t → exec i s' = .next t' →
    ∃ suffix, t.sym = s.sym ++ suffix ∧ t'.sym = s'.sym ++ suffix

/-- R64: the pin changes and time changes of the environment during a frame are as good as changes after it, because
each commutes with the whole frame. A line released with its pull-up off takes a free level (the model's, log entry 7), and
the statement holds whatever that level is. -/
def Obligations.EnvironmentCommutesWithAFrame : Prop :=
  ∀ (i : Instr) (s t u : State) (e : Event), i.isTransmit = true →
    (∃ l v, e = .pin l v) ∨ (∃ l, e = .release l) ∨ (∃ n, e = .time n) →
    exec i s = .next t → runEvent e s = .next u →
    ∃ v, exec i u = .next v ∧ runEvent e t = .next v

/-- R73, R74, R104, R107, read as the part of a frame's step the symbol stands for (the model's reading of the rows, log
entry 8): with interrupts suspended and a bit being sent, a bit symbol drives the line high and then low for its two
durations and is recorded; a latch is a low segment of the latch duration and ends the frame. -/
def Obligations.WireSymbolsCompleteInAFrame : Prop :=
  ∀ s : State, s.context = .foreground → s.doutOe = true → s.ie = false →
    (∀ pix ch bit ph, s.tx = .sending pix ch bit ph →
      exec .bit0 s = .next { s with
        tx := .sending pix ch bit .low
        dout := false
        sym := s.sym ++ [.bit0]
        wire := s.wire ++ [⟨true, s.cfg.cyc s.cfg.t0hNs⟩, ⟨false, s.cfg.cyc s.cfg.t0lNs⟩] } ∧
      exec .bit1 s = .next { s with
        tx := .sending pix ch bit .low
        dout := false
        sym := s.sym ++ [.bit1]
        wire := s.wire ++ [⟨true, s.cfg.cyc s.cfg.t1hNs⟩, ⟨false, s.cfg.cyc s.cfg.t1lNs⟩] }) ∧
    exec .latch s = .next { s with
      tx := .idle
      sym := s.sym ++ [.latch]
      wire := s.wire ++ [⟨false, s.cfg.latchCyc⟩] }

/-! ### The Quadrature Decoder -/

/-- R130: `ENC_BEGIN` turns the pull-ups and the pin-change interrupt on and leaves everything else. -/
def Obligations.EncBeginConfiguresThePins : Prop :=
  (∀ c, encode c .encBegin = [false, true, false, false]) ∧
  ∀ s : State,
    (s.context = .foreground → exec .encBegin s = .next { s with pue := ⟨true, true, true⟩, pcie := true }) ∧
    (s.context = .interrupt → exec .encBegin s = .refused .wrongContext)

/-- R84: the table counts a change of exactly one line by its direction, times `QDIR`, and everything else as 0. -/
def Obligations.LookupTableCountsLegalSteps : Prop :=
  ∀ (c : Config) (a b : Bool),
    c.lut (sample a b ++ sample (!a) b) = c.qdir.sign * moveSign a b .a ∧
    c.lut (sample a b ++ sample a (!b)) = c.qdir.sign * moveSign a b .b ∧
    c.lut (sample a b ++ sample a b) = 0 ∧
    c.lut (sample a b ++ sample (!a) (!b)) = 0

/-- R131 and R134, with the history of R80: the whole effect of `ENC_ISR_Q` for a counter within its limits. -/
def Obligations.EncIsrQUpdatesByTheTable : Prop :=
  (∀ c a b, encode c (.encIsrQ a b) = [true, false, false, false, a, b]) ∧
  ∀ (a b : Bool) (s : State),
    (s.context = .interrupt → s.counterMinLimit ≤ s.counter → s.counter ≤ s.counterMaxLimit →
      exec (.encIsrQ a b) s = .next { s with
        hist := s.hist.extractLsb' 0 2 ++ sample a b
        counter := counterAfter s (s.cfg.lut (s.hist.extractLsb' 0 2 ++ sample a b)) }) ∧
    (s.context = .foreground → exec (.encIsrQ a b) s = .refused .wrongContext)

/-- R84 and R134, read as the part of the callback's step an entry stands for (the model's reading of the rows, log
entry 8): the 16 entries, each the update of the counter by its increment. -/
def Obligations.LookupRowsApplyTheirIncrement : Prop :=
  ∀ s : State, s.context = .interrupt → s.counterMinLimit ≤ s.counter → s.counter ≤ s.counterMaxLimit →
    let forward := Host.Outcome.next (φ := Fault) (ρ := Refusal) { s with counter := counterAfter s s.cfg.qdir.sign }
    let backward :=
      Host.Outcome.next (φ := Fault) (ρ := Refusal) { s with counter := counterAfter s (-s.cfg.qdir.sign) }
    exec .lut0 s = .next s ∧ exec .lut1 s = backward ∧ exec .lut2 s = forward ∧ exec .lut3 s = .next s ∧
    exec .lut4 s = forward ∧ exec .lut5 s = .next s ∧ exec .lut6 s = .next s ∧ exec .lut7 s = backward ∧
    exec .lut8 s = backward ∧ exec .lut9 s = .next s ∧ exec .lut10 s = .next s ∧ exec .lut11 s = forward ∧
    exec .lut12 s = .next s ∧ exec .lut13 s = forward ∧ exec .lut14 s = backward ∧ exec .lut15 s = .next s

/-- R131, R133: the callback is one table entry, the one at the new history. -/
def Obligations.EncIsrQIsOneLookupRow : Prop :=
  ∀ (a b : Bool) (s : State), let h := pushSample s.hist a b
    exec (.encIsrQ a b) s = exec (lutRow h) { s with hist := h }

/-- R24, R132: every instruction that completes keeps the counter within its limits. -/
def Obligations.CounterStaysWithinLimits : Prop :=
  ∀ (i : Instr) (s t : State), 1 ≤ s.cfg.s → s.counterMinLimit ≤ s.counter → s.counter ≤ s.counterMaxLimit →
    exec i s = .next t → t.counterMinLimit ≤ t.counter ∧ t.counter ≤ t.counterMaxLimit

/-- R135: for every sequence of legal single steps with one handler run each, from a state whose history is the real
sample and whose limits are not met, the counter moves by `N - M` sub-steps, times `QDIR`. (How the sequence is scheduled
is the model's, log entry 3.) -/
def Obligations.CountingLaw : Prop :=
  ∀ (s : State) (ls : List EncLine) (rest : List Event), s.Inv → s.pcie = true → s.inSync →
    s.script = turnEvents s.pinA s.pinB ls ++ rest →
    s.counterMinLimit + ls.length ≤ s.counter → s.counter + ls.length ≤ s.counterMaxLimit →
    ∃ t, Sys2Proof.core.run (2 * ls.length) s = .next t ∧ t.script = rest ∧
      t.counter = s.counter + s.cfg.qdir.sign * netTurn s.pinA s.pinB ls

/-- R188: what one handler run makes of several legal steps in one direction, either one: one is counted, two and four are
lost, three count one the other way. A line that changed and changed back, any of the three, is seen as unchanged: the
index has previous = current and the increment is 0, and there is no button edge when the last run saw the button at its
present level. (How the changes are scheduled is the model's, log entry 3.) -/
def Obligations.CoalescedStepsAreMiscounted : Prop :=
  ∀ (s : State) (rest : List Event), s.Inv → s.pcie = true → s.inSync →
    s.counterMinLimit < s.counter → s.counter < s.counterMaxLimit →
    (∀ (forward : Bool) (n : Nat), 1 ≤ n → n ≤ 4 →
      s.script = sameWayMoves forward n s.pinA s.pinB ++ .irq :: rest →
      let one := if forward then s.cfg.qdir.sign else -s.cfg.qdir.sign
      ∃ t, Sys2Proof.core.run (n + 1) s = .next t ∧ t.script = rest ∧
        t.counter = s.counter + (if n = 1 then one else if n = 3 then -one else 0)) ∧
    (∀ l : InLine, s.script = [.pin l (!s.level l), .pin l (s.level l), .irq] ++ rest →
      ∃ t, Sys2Proof.core.run 3 s = .next t ∧ t.script = rest ∧
        t.hist = sample s.pinA s.pinB ++ sample s.pinA s.pinB ∧ t.counter = s.counter ∧
        (s.prevBtn = s.pinBtn →
          t.btnState = s.btnState ∧ t.pressStart = s.pressStart ∧ t.prevBtn = s.prevBtn))

/-- R136, R152: `ENC_GET` delivers the counter over `S`, toward zero, leaves interrupts enabled and changes nothing
else. The field that holds the delivered value is the model's own (log entry 4). -/
def Obligations.EncGetDeliversDetents : Prop :=
  (∀ c, encode c .encGet = [false, true, false, true]) ∧
  ∀ s : State,
    (s.context = .foreground → exec .encGet s = .next { s with
      ie := true
      ret := .detents (if 0 ≤ s.counter then s.counter / s.cfg.s else -(-s.counter / s.cfg.s)) }) ∧
    (s.context = .interrupt → exec .encGet s = .refused .wrongContext)

/-- R137, R152: the value delivered is within the limits in detent units and is a `sW` value, and a second call
delivers the same. -/
def Obligations.EncGetStaysInRange : Prop :=
  ∀ s t : State, s.Inv → exec .encGet s = .next t →
    ∃ v, t.ret = .detents v ∧ s.counterMinLimit.tdiv s.cfg.s ≤ v ∧ v ≤ s.counterMaxLimit.tdiv s.cfg.s ∧
      s.cfg.intMin ≤ v ∧ v ≤ s.cfg.intMax ∧ exec .encGet t = .next t

/-- R140: the whole effect of `ENC_SET`, failing and successful. The delivered result is the model's own field (log
entry 4). -/
def Obligations.EncSetReplacesOrFails : Prop :=
  (∀ c value lo hi w, encode c (.encSet value lo hi w) = [false, true, true, false] ++
    bitsOfNat c.w (natOfSigned c.w value) ++ bitsOfNat c.w (natOfSigned c.w lo) ++
    bitsOfNat c.w (natOfSigned c.w hi) ++ [w]) ∧
  ∀ (value minLimit maxLimit : Int) (w : Bool) (s : State),
    (s.context = .foreground → maxLimit ≤ minLimit →
      exec (.encSet value minLimit maxLimit w) s = .next { s with ret := .status false }) ∧
    (s.context = .foreground → minLimit < maxLimit → 1 ≤ s.cfg.s →
      let lo := max s.cfg.limLo (min minLimit s.cfg.limHi)
      let hi := max s.cfg.limLo (min maxLimit s.cfg.limHi)
      exec (.encSet value minLimit maxLimit w) s = .next { s with
        counterMinLimit := lo * s.cfg.s
        counterMaxLimit := hi * s.cfg.s
        counter := max lo (min value hi) * s.cfg.s
        wrap := w
        ie := true
        ret := .status true }) ∧
    (s.context = .interrupt → exec (.encSet value minLimit maxLimit w) s = .refused .wrongContext)

/-- R150: scaling cannot overflow. Every value of the safe sub-range scales to a `sW` value, and after a successful
`ENC_SET` the limits and the counter are such values, multiples of `S`, in order. -/
def Obligations.EncSetCannotOverflow : Prop :=
  (∀ c : Config, 1 ≤ c.s → ∀ x : Int, c.limLo ≤ x → x ≤ c.limHi → c.intMin ≤ x * c.s ∧ x * c.s ≤ c.intMax) ∧
  ∀ (value minLimit maxLimit : Int) (w : Bool) (s : State), s.context = .foreground → 1 ≤ s.cfg.s →
    minLimit < maxLimit →
    ∃ t, exec (.encSet value minLimit maxLimit w) s = .next t ∧
      s.cfg.intMin ≤ t.counterMinLimit ∧ t.counterMinLimit ≤ t.counter ∧ t.counter ≤ t.counterMaxLimit ∧
      t.counterMaxLimit ≤ s.cfg.intMax ∧
      (s.cfg.s : Int) ∣ t.counter ∧ (s.cfg.s : Int) ∣ t.counterMinLimit ∧ (s.cfg.s : Int) ∣ t.counterMaxLimit

/-- R143: limits on the same side outside the safe sub-range clamp to the same end, and from then on no event moves the
counter. -/
def Obligations.LimitsEqualByClampingFreezeTheCounter : Prop :=
  (∀ (value minLimit maxLimit : Int) (w : Bool) (s t : State), 1 ≤ s.cfg.s → minLimit < maxLimit →
    exec (.encSet value minLimit maxLimit w) s = .next t →
    (s.cfg.limHi ≤ minLimit → t.counter = s.cfg.limHi * s.cfg.s ∧ t.counterMinLimit = t.counter ∧
      t.counterMaxLimit = t.counter) ∧
    (maxLimit ≤ s.cfg.limLo → t.counter = s.cfg.limLo * s.cfg.s ∧ t.counterMinLimit = t.counter ∧
      t.counterMaxLimit = t.counter)) ∧
  ∀ (a b : Bool) (s t : State), s.counterMinLimit = s.counter → s.counterMaxLimit = s.counter →
    exec (.encIsrQ a b) s = .next t → t.counter = s.counter

/-! ### The Button Click Classifier -/

/-- R160 with R161 to R164 and R168: the whole effect of `ENC_ISR_B`. A falling edge records the time, a rising edge
classifies the hold, no edge changes nothing. -/
def Obligations.EncIsrBClassifiesTheHold : Prop :=
  (∀ c lvl t, encode c (.encIsrB lvl t) = [true, false, false, true, lvl] ++ bitsOfNat c.tw t) ∧
  ∀ (t : Nat) (s : State), t < 2 ^ s.cfg.tw → s.pressStart < 2 ^ s.cfg.tw →
    (s.context = .interrupt → s.prevBtn = true →
      exec (.encIsrB false t) s = .next { s with pressStart := t, prevBtn := false }) ∧
    (s.context = .interrupt → s.prevBtn = false →
      let held := if s.pressStart ≤ t then t - s.pressStart else t + 2 ^ s.cfg.tw - s.pressStart
      exec (.encIsrB true t) s = .next { s with
        prevBtn := true
        btnState := if held ≤ s.cfg.shortT then s.btnState
          else if held ≤ s.cfg.longT then .shortClick else .longClick }) ∧
    (s.context = .interrupt → exec (.encIsrB s.prevBtn t) s = .next s) ∧
    (∀ lvl, s.context = .foreground → exec (.encIsrB lvl t) s = .refused .wrongContext)

/-- R166, R167: `BTN_GET` delivers the pending state and clears it, leaves interrupts enabled and changes nothing else;
a second call delivers `NONE`. The field that holds the delivered value is the model's own (log entry 4). -/
def Obligations.BtnGetReadsAndClears : Prop :=
  (∀ c, encode c .btnGet = [false, true, true, true]) ∧
  ∀ s : State,
    (s.context = .foreground →
      exec .btnGet s = .next { s with btnState := .none, ie := true, ret := .click s.btnState }) ∧
    (s.context = .foreground → ∀ t, exec .btnGet s = .next t → exec .btnGet t = .next { t with ret := .click .none }) ∧
    (s.context = .interrupt → exec .btnGet s = .refused .wrongContext)

/-- R163, R167 over a whole press: the environment presses at `t0` and releases at `t1`, with a handler run after each;
the flag is then the classification of `t1 - t0`, and R191: with the encoder lines at their last sample the counter stays.
(How the events are scheduled is the model's, log entry 3.) -/
def Obligations.PressIsClassifiedOnRelease : Prop :=
  ∀ (s : State) (t0 t1 : Nat) (rest : List Event), s.Inv → s.pcie = true → s.prevBtn = true → s.pinBtn = true →
    t0 ≤ t1 → t1 < 2 ^ s.cfg.tw →
    s.script = [.time t0, .pin .btn false, .irq, .time t1, .pin .btn true, .irq] ++ rest →
    ∃ u, Sys2Proof.core.run 6 s = .next u ∧ u.script = rest ∧ u.prevBtn = true ∧ u.pressStart = t0 ∧
      u.btnState = (if t1 - t0 ≤ s.cfg.shortT then s.btnState
        else if t1 - t0 ≤ s.cfg.longT then .shortClick else .longClick) ∧
      (s.inSync → u.counter = s.counter)

/-- R86, R72, R163, R166, R140, read as the part of a step the code stands for (the model's reading of the rows, log
entry 8): where each code of `btnState` is written and each result of `ENC_SET` delivered. -/
def Obligations.CodeRowsComplete : Prop :=
  ∀ s : State,
    (s.context = .foreground → s.ie = false → exec .btnStateNone s = .next { s with btnState := .none }) ∧
    (s.context = .interrupt → exec .btnStateShortClick s = .next { s with btnState := .shortClick }) ∧
    (s.context = .interrupt → exec .btnStateLongClick s = .next { s with btnState := .longClick }) ∧
    (s.context = .foreground → exec .resultFail s = .next { s with ret := .status false }) ∧
    (s.context = .foreground → exec .resultOk s = .next { s with ret := .status true }) ∧
    BtnState.none.code = 0b00 ∧ BtnState.shortClick.code = 0b01 ∧ BtnState.longClick.code = 0b10 ∧
    statusCode true = 1 ∧ statusCode false = 0

/-! ### The interrupt and the environment -/

/-- R186: an environment step sets a line; a transition sets `PCPEND` when `PCIE = 1`, whatever `IE` is; the same level
written, or `PCIE = 0`, records nothing. Nothing else changes. -/
def Obligations.PinTransitionRaisesTheInterrupt : Prop :=
  ∀ (s : State) (l : InLine) (v : Bool) (rest : List Event), s.script = .pin l v :: rest →
    ∃ t, step s = .next t ∧ t.level l = v ∧ (∀ l', l' ≠ l → t.level l' = s.level l') ∧
      (s.level l ≠ v → s.pcie = true → t.pcpend = true) ∧
      (s.level l = v ∨ s.pcie = false → t.pcpend = s.pcpend) ∧
      t = { s with script := rest, pinA := t.pinA, pinB := t.pinB, pinBtn := t.pinBtn, pcpend := t.pcpend }

/-- R31: a line that nobody drives is high when its pull-up is on: the step is that of the line set high. -/
def Obligations.PullUpDecidesAReleasedLine : Prop :=
  ∀ (s : State) (l : InLine) (rest : List Event), s.pullUp l = true →
    step { s with script := .release l :: rest } = step { s with script := .pin l true :: rest }

/-- R190, R191: an `IRQ` step clears `PCPEND`, samples all inputs, runs both callbacks and returns to the foreground;
R93, R187: it is refused when the handler is not enabled. -/
def Obligations.HandlerRunsBothCallbacks : Prop :=
  ∀ (s : State) (rest : List Event), s.script = .irq :: rest →
    (s.pcpend = true → s.ie = true → s.context = .foreground →
      ∃ t u, exec (.encIsrQ s.pinA s.pinB) { s with script := rest, pcpend := false, context := .interrupt } = .next t ∧
        exec (.encIsrB s.pinBtn s.now) t = .next u ∧ step s = .next { u with context := .foreground }) ∧
    (s.pcpend = false ∨ s.ie = false ∨ s.context = .interrupt → step s = .refused .handlerNotEnabled)

/-- R192, R194, R197: a handler run writes `PCPEND`, `hist`, `counter` and the button registers, and nothing else: not
`IE`, not the limits, not a configuration bit, not the output line. -/
def Obligations.HandlerWritesOnlyItsRegisters : Prop :=
  ∀ (s t : State) (rest : List Event), s.script = .irq :: rest → step s = .next t →
    t = { s with
      script := rest
      pcpend := false
      hist := t.hist
      counter := t.counter
      btnState := t.btnState
      pressStart := t.pressStart
      prevBtn := t.prevBtn }

/-- R191: the order of the two callbacks inside a run is not observable. -/
def Obligations.CallbackOrderIsUnobservable : Prop :=
  ∀ (a b lvl : Bool) (n : Nat) (s : State),
    andThen (exec (.encIsrQ a b) s) (exec (.encIsrB lvl n)) = andThen (exec (.encIsrB lvl n) s) (exec (.encIsrQ a b))

/-- R189: only the start of the handler clears `PCPEND`: a scheduled `IRQ` step, or the handler's own step when nothing
is scheduled. -/
def Obligations.OnlyTheHandlerClearsThePendingFlag : Prop :=
  ∀ s t : State, step s = .next t → s.pcpend = true → t.pcpend = false →
    s.handlerEnabled = true ∧ (s.script = [] ∨ ∃ rest, s.script = .irq :: rest)

/-- P5 step 6 and R51: the caller's write of an array is what is read from it afterwards; every other array reads as
before, and the canonical form is kept. -/
def Obligations.CallerWriteIsReadBack : Prop :=
  ∀ (s : State) (r : ArrayRef) (bytes : List Byte) (rest : List Event), s.arrays.wf →
    s.script = .callerWrite r bytes :: rest →
    ∃ t, step s = .next t ∧ t = { s with script := rest, arrays := t.arrays } ∧ t.arrays.wf ∧
      (∀ j, memRead t.arrays r j = bytes[j]?) ∧
      ∀ r', r' ≠ r → ∀ j, memRead t.arrays r' j = memRead s.arrays r' j

/-! ### Whole-machine rules -/

/-- R228, R131, R160: which operations leave `IE = 1`, and that no other instruction touches it. (Among the others are the
rows that are no operation, whose meaning is the model's reading, log entry 8.) -/
def Obligations.OperationsEndWithInterruptsEnabled : Prop :=
  ∀ (i : Instr) (s t : State), exec i s = .next t →
    (i = .encGet ∨ i = .btnGet ∨ i.isTransmit = true → t.ie = true) ∧
    (∀ v lo hi w, i = .encSet v lo hi w → (lo < hi → t.ie = true) ∧ (hi ≤ lo → t.ie = s.ie)) ∧
    (i ≠ .encGet → i ≠ .btnGet → i.isTransmit = false → (∀ v lo hi w, i ≠ .encSet v lo hi w) → t.ie = s.ie)

/-- R20, R23, R34 to R36, R26: the writers of the encoder side's registers. (A lookup entry and a code of `btnState` are
rows of the model's reading, log entry 8.) -/
def Obligations.EncoderRegistersHaveTheirWriters : Prop :=
  ∀ (i : Instr) (s t : State), exec i s = .next t →
    ((∀ a b, i ≠ .encIsrQ a b) → (∀ v lo hi w, i ≠ .encSet v lo hi w) → i.format ≠ .lutEntry →
      t.counter = s.counter) ∧
    ((∀ v lo hi w, i ≠ .encSet v lo hi w) →
      t.counterMinLimit = s.counterMinLimit ∧ t.counterMaxLimit = s.counterMaxLimit ∧ t.wrap = s.wrap) ∧
    ((∀ a b, i ≠ .encIsrQ a b) → t.hist = s.hist) ∧
    ((∀ lvl n, i ≠ .encIsrB lvl n) → t.pressStart = s.pressStart ∧ t.prevBtn = s.prevBtn) ∧
    ((∀ lvl n, i ≠ .encIsrB lvl n) → i ≠ .btnGet → i.format ≠ .btnCode → t.btnState = s.btnState)

/-- R29 to R32, R41, R197: `DOUT_OE` is set only by `PX_BEGIN` and `PUE`, `PCIE` only by `ENC_BEGIN`, and none is ever
cleared; `DOUT`, `tx` and the traces belong to the transmitter alone. (A wire symbol is a row of the model's reading, log
entry 8.) -/
def Obligations.OutputAndConfigurationHaveTheirWriters : Prop :=
  ∀ (i : Instr) (s t : State), exec i s = .next t →
    t.doutOe = (s.doutOe || decide (i = .pxBegin)) ∧
    t.pcie = (s.pcie || decide (i = .encBegin)) ∧
    (∀ l, t.pullUp l = (s.pullUp l || decide (i = .encBegin))) ∧
    (i.isTransmit = false → i.format ≠ .wireSymbol →
      t.dout = s.dout ∧ t.tx = s.tx ∧ t.sym = s.sym ∧ t.wire = s.wire)

/-- R38, R187, R189, R197: no instruction changes the parameters, the inputs, the pending flag, the context or what is
scheduled; no byte of the caller's arrays changes; only the operations with a result deliver one. -/
def Obligations.ExecLeavesTheInputs : Prop :=
  ∀ (i : Instr) (s t : State), exec i s = .next t →
    t.cfg = s.cfg ∧ t.pinA = s.pinA ∧ t.pinB = s.pinB ∧ t.pinBtn = s.pinBtn ∧ t.now = s.now ∧
    t.pcpend = s.pcpend ∧ t.context = s.context ∧ t.script = s.script ∧ t.freeIndex = s.freeIndex ∧
    (∀ r j, memRead t.arrays r j = memRead s.arrays r j) ∧
    (i ≠ .encGet → i ≠ .btnGet → (∀ v lo hi w, i ≠ .encSet v lo hi w) → i.format ≠ .resultCode → t.ret = s.ret)

/-- R38 (b), R39: over any step the parameters stay and the traces only grow. -/
def Obligations.ParametersStayAndTracesGrow : Prop :=
  ∀ s t : State, step s = .next t → t.cfg = s.cfg ∧ s.sym <+: t.sym ∧ s.wire <+: t.wire
end

