-- ==== Sys2Proof/Laws/State.lean ====
section
/-! SUPPORT. One lemma per field per update of State, true by rfl, so that no proof unfolds a record update. -/

namespace Sys2Proof.Machine

variable (s : State)

@[simp] theorem delay_eq (c : Int) : delay c s = s := rfl
@[simp] theorem waitAtLeast_eq (n : Nat) : waitAtLeast n s = s := rfl

/-! ### suspend -/

@[simp] theorem suspend_cfg : (suspend s).cfg = s.cfg := rfl
@[simp] theorem suspend_counter : (suspend s).counter = s.counter := rfl
@[simp] theorem suspend_counterMinLimit : (suspend s).counterMinLimit = s.counterMinLimit := rfl
@[simp] theorem suspend_counterMaxLimit : (suspend s).counterMaxLimit = s.counterMaxLimit := rfl
@[simp] theorem suspend_wrap : (suspend s).wrap = s.wrap := rfl
@[simp] theorem suspend_hist : (suspend s).hist = s.hist := rfl
@[simp] theorem suspend_btnState : (suspend s).btnState = s.btnState := rfl
@[simp] theorem suspend_pressStart : (suspend s).pressStart = s.pressStart := rfl
@[simp] theorem suspend_prevBtn : (suspend s).prevBtn = s.prevBtn := rfl
@[simp] theorem suspend_doutOe : (suspend s).doutOe = s.doutOe := rfl
@[simp] theorem suspend_dout : (suspend s).dout = s.dout := rfl
@[simp] theorem suspend_pue : (suspend s).pue = s.pue := rfl
@[simp] theorem suspend_pcie : (suspend s).pcie = s.pcie := rfl
@[simp] theorem suspend_pcpend : (suspend s).pcpend = s.pcpend := rfl
@[simp] theorem suspend_ie : (suspend s).ie = false := rfl
@[simp] theorem suspend_tx : (suspend s).tx = s.tx := rfl
@[simp] theorem suspend_sym : (suspend s).sym = s.sym := rfl
@[simp] theorem suspend_wire : (suspend s).wire = s.wire := rfl
@[simp] theorem suspend_context : (suspend s).context = s.context := rfl
@[simp] theorem suspend_pinA : (suspend s).pinA = s.pinA := rfl
@[simp] theorem suspend_pinB : (suspend s).pinB = s.pinB := rfl
@[simp] theorem suspend_pinBtn : (suspend s).pinBtn = s.pinBtn := rfl
@[simp] theorem suspend_now : (suspend s).now = s.now := rfl
@[simp] theorem suspend_arrays : (suspend s).arrays = s.arrays := rfl
@[simp] theorem suspend_ret : (suspend s).ret = s.ret := rfl
@[simp] theorem suspend_script : (suspend s).script = s.script := rfl
@[simp] theorem suspend_freeIndex : (suspend s).freeIndex = s.freeIndex := rfl

/-! ### resume -/

@[simp] theorem resume_cfg : (resume s).cfg = s.cfg := rfl
@[simp] theorem resume_counter : (resume s).counter = s.counter := rfl
@[simp] theorem resume_counterMinLimit : (resume s).counterMinLimit = s.counterMinLimit := rfl
@[simp] theorem resume_counterMaxLimit : (resume s).counterMaxLimit = s.counterMaxLimit := rfl
@[simp] theorem resume_wrap : (resume s).wrap = s.wrap := rfl
@[simp] theorem resume_hist : (resume s).hist = s.hist := rfl
@[simp] theorem resume_btnState : (resume s).btnState = s.btnState := rfl
@[simp] theorem resume_pressStart : (resume s).pressStart = s.pressStart := rfl
@[simp] theorem resume_prevBtn : (resume s).prevBtn = s.prevBtn := rfl
@[simp] theorem resume_doutOe : (resume s).doutOe = s.doutOe := rfl
@[simp] theorem resume_dout : (resume s).dout = s.dout := rfl
@[simp] theorem resume_pue : (resume s).pue = s.pue := rfl
@[simp] theorem resume_pcie : (resume s).pcie = s.pcie := rfl
@[simp] theorem resume_pcpend : (resume s).pcpend = s.pcpend := rfl
@[simp] theorem resume_ie : (resume s).ie = true := rfl
@[simp] theorem resume_tx : (resume s).tx = s.tx := rfl
@[simp] theorem resume_sym : (resume s).sym = s.sym := rfl
@[simp] theorem resume_wire : (resume s).wire = s.wire := rfl
@[simp] theorem resume_context : (resume s).context = s.context := rfl
@[simp] theorem resume_pinA : (resume s).pinA = s.pinA := rfl
@[simp] theorem resume_pinB : (resume s).pinB = s.pinB := rfl
@[simp] theorem resume_pinBtn : (resume s).pinBtn = s.pinBtn := rfl
@[simp] theorem resume_now : (resume s).now = s.now := rfl
@[simp] theorem resume_arrays : (resume s).arrays = s.arrays := rfl
@[simp] theorem resume_ret : (resume s).ret = s.ret := rfl
@[simp] theorem resume_script : (resume s).script = s.script := rfl
@[simp] theorem resume_freeIndex : (resume s).freeIndex = s.freeIndex := rfl

/-! ### deliver -/

@[simp] theorem deliver_cfg (v : Ret) : (deliver v s).cfg = s.cfg := rfl
@[simp] theorem deliver_counter (v : Ret) : (deliver v s).counter = s.counter := rfl
@[simp] theorem deliver_counterMinLimit (v : Ret) : (deliver v s).counterMinLimit = s.counterMinLimit := rfl
@[simp] theorem deliver_counterMaxLimit (v : Ret) : (deliver v s).counterMaxLimit = s.counterMaxLimit := rfl
@[simp] theorem deliver_wrap (v : Ret) : (deliver v s).wrap = s.wrap := rfl
@[simp] theorem deliver_hist (v : Ret) : (deliver v s).hist = s.hist := rfl
@[simp] theorem deliver_btnState (v : Ret) : (deliver v s).btnState = s.btnState := rfl
@[simp] theorem deliver_pressStart (v : Ret) : (deliver v s).pressStart = s.pressStart := rfl
@[simp] theorem deliver_prevBtn (v : Ret) : (deliver v s).prevBtn = s.prevBtn := rfl
@[simp] theorem deliver_doutOe (v : Ret) : (deliver v s).doutOe = s.doutOe := rfl
@[simp] theorem deliver_dout (v : Ret) : (deliver v s).dout = s.dout := rfl
@[simp] theorem deliver_pue (v : Ret) : (deliver v s).pue = s.pue := rfl
@[simp] theorem deliver_pcie (v : Ret) : (deliver v s).pcie = s.pcie := rfl
@[simp] theorem deliver_pcpend (v : Ret) : (deliver v s).pcpend = s.pcpend := rfl
@[simp] theorem deliver_ie (v : Ret) : (deliver v s).ie = s.ie := rfl
@[simp] theorem deliver_tx (v : Ret) : (deliver v s).tx = s.tx := rfl
@[simp] theorem deliver_sym (v : Ret) : (deliver v s).sym = s.sym := rfl
@[simp] theorem deliver_wire (v : Ret) : (deliver v s).wire = s.wire := rfl
@[simp] theorem deliver_context (v : Ret) : (deliver v s).context = s.context := rfl
@[simp] theorem deliver_pinA (v : Ret) : (deliver v s).pinA = s.pinA := rfl
@[simp] theorem deliver_pinB (v : Ret) : (deliver v s).pinB = s.pinB := rfl
@[simp] theorem deliver_pinBtn (v : Ret) : (deliver v s).pinBtn = s.pinBtn := rfl
@[simp] theorem deliver_now (v : Ret) : (deliver v s).now = s.now := rfl
@[simp] theorem deliver_arrays (v : Ret) : (deliver v s).arrays = s.arrays := rfl
@[simp] theorem deliver_ret (v : Ret) : (deliver v s).ret = v := rfl
@[simp] theorem deliver_script (v : Ret) : (deliver v s).script = s.script := rfl
@[simp] theorem deliver_freeIndex (v : Ret) : (deliver v s).freeIndex = s.freeIndex := rfl

/-! ### drive -/

@[simp] theorem drive_cfg (l : Bool) : (drive l s).cfg = s.cfg := rfl
@[simp] theorem drive_counter (l : Bool) : (drive l s).counter = s.counter := rfl
@[simp] theorem drive_counterMinLimit (l : Bool) : (drive l s).counterMinLimit = s.counterMinLimit := rfl
@[simp] theorem drive_counterMaxLimit (l : Bool) : (drive l s).counterMaxLimit = s.counterMaxLimit := rfl
@[simp] theorem drive_wrap (l : Bool) : (drive l s).wrap = s.wrap := rfl
@[simp] theorem drive_hist (l : Bool) : (drive l s).hist = s.hist := rfl
@[simp] theorem drive_btnState (l : Bool) : (drive l s).btnState = s.btnState := rfl
@[simp] theorem drive_pressStart (l : Bool) : (drive l s).pressStart = s.pressStart := rfl
@[simp] theorem drive_prevBtn (l : Bool) : (drive l s).prevBtn = s.prevBtn := rfl
@[simp] theorem drive_doutOe (l : Bool) : (drive l s).doutOe = s.doutOe := rfl
@[simp] theorem drive_dout (l : Bool) : (drive l s).dout = l := rfl
@[simp] theorem drive_pue (l : Bool) : (drive l s).pue = s.pue := rfl
@[simp] theorem drive_pcie (l : Bool) : (drive l s).pcie = s.pcie := rfl
@[simp] theorem drive_pcpend (l : Bool) : (drive l s).pcpend = s.pcpend := rfl
@[simp] theorem drive_ie (l : Bool) : (drive l s).ie = s.ie := rfl
@[simp] theorem drive_tx (l : Bool) : (drive l s).tx = s.tx := rfl
@[simp] theorem drive_sym (l : Bool) : (drive l s).sym = s.sym := rfl
@[simp] theorem drive_wire (l : Bool) : (drive l s).wire = s.wire := rfl
@[simp] theorem drive_context (l : Bool) : (drive l s).context = s.context := rfl
@[simp] theorem drive_pinA (l : Bool) : (drive l s).pinA = s.pinA := rfl
@[simp] theorem drive_pinB (l : Bool) : (drive l s).pinB = s.pinB := rfl
@[simp] theorem drive_pinBtn (l : Bool) : (drive l s).pinBtn = s.pinBtn := rfl
@[simp] theorem drive_now (l : Bool) : (drive l s).now = s.now := rfl
@[simp] theorem drive_arrays (l : Bool) : (drive l s).arrays = s.arrays := rfl
@[simp] theorem drive_ret (l : Bool) : (drive l s).ret = s.ret := rfl
@[simp] theorem drive_script (l : Bool) : (drive l s).script = s.script := rfl
@[simp] theorem drive_freeIndex (l : Bool) : (drive l s).freeIndex = s.freeIndex := rfl

/-! ### emitSeg -/

@[simp] theorem emitSeg_cfg (l : Bool) (c : Nat) : (emitSeg l c s).cfg = s.cfg := rfl
@[simp] theorem emitSeg_counter (l : Bool) (c : Nat) : (emitSeg l c s).counter = s.counter := rfl
@[simp] theorem emitSeg_counterMinLimit (l : Bool) (c : Nat) : (emitSeg l c s).counterMinLimit = s.counterMinLimit := rfl
@[simp] theorem emitSeg_counterMaxLimit (l : Bool) (c : Nat) : (emitSeg l c s).counterMaxLimit = s.counterMaxLimit := rfl
@[simp] theorem emitSeg_wrap (l : Bool) (c : Nat) : (emitSeg l c s).wrap = s.wrap := rfl
@[simp] theorem emitSeg_hist (l : Bool) (c : Nat) : (emitSeg l c s).hist = s.hist := rfl
@[simp] theorem emitSeg_btnState (l : Bool) (c : Nat) : (emitSeg l c s).btnState = s.btnState := rfl
@[simp] theorem emitSeg_pressStart (l : Bool) (c : Nat) : (emitSeg l c s).pressStart = s.pressStart := rfl
@[simp] theorem emitSeg_prevBtn (l : Bool) (c : Nat) : (emitSeg l c s).prevBtn = s.prevBtn := rfl
@[simp] theorem emitSeg_doutOe (l : Bool) (c : Nat) : (emitSeg l c s).doutOe = s.doutOe := rfl
@[simp] theorem emitSeg_dout (l : Bool) (c : Nat) : (emitSeg l c s).dout = s.dout := rfl
@[simp] theorem emitSeg_pue (l : Bool) (c : Nat) : (emitSeg l c s).pue = s.pue := rfl
@[simp] theorem emitSeg_pcie (l : Bool) (c : Nat) : (emitSeg l c s).pcie = s.pcie := rfl
@[simp] theorem emitSeg_pcpend (l : Bool) (c : Nat) : (emitSeg l c s).pcpend = s.pcpend := rfl
@[simp] theorem emitSeg_ie (l : Bool) (c : Nat) : (emitSeg l c s).ie = s.ie := rfl
@[simp] theorem emitSeg_tx (l : Bool) (c : Nat) : (emitSeg l c s).tx = s.tx := rfl
@[simp] theorem emitSeg_sym (l : Bool) (c : Nat) : (emitSeg l c s).sym = s.sym := rfl
@[simp] theorem emitSeg_wire (l : Bool) (c : Nat) : (emitSeg l c s).wire = s.wire ++ [⟨l, c⟩] := rfl
@[simp] theorem emitSeg_context (l : Bool) (c : Nat) : (emitSeg l c s).context = s.context := rfl
@[simp] theorem emitSeg_pinA (l : Bool) (c : Nat) : (emitSeg l c s).pinA = s.pinA := rfl
@[simp] theorem emitSeg_pinB (l : Bool) (c : Nat) : (emitSeg l c s).pinB = s.pinB := rfl
@[simp] theorem emitSeg_pinBtn (l : Bool) (c : Nat) : (emitSeg l c s).pinBtn = s.pinBtn := rfl
@[simp] theorem emitSeg_now (l : Bool) (c : Nat) : (emitSeg l c s).now = s.now := rfl
@[simp] theorem emitSeg_arrays (l : Bool) (c : Nat) : (emitSeg l c s).arrays = s.arrays := rfl
@[simp] theorem emitSeg_ret (l : Bool) (c : Nat) : (emitSeg l c s).ret = s.ret := rfl
@[simp] theorem emitSeg_script (l : Bool) (c : Nat) : (emitSeg l c s).script = s.script := rfl
@[simp] theorem emitSeg_freeIndex (l : Bool) (c : Nat) : (emitSeg l c s).freeIndex = s.freeIndex := rfl

/-! ### emit -/

@[simp] theorem emit_cfg (x : Symbol) : (emit x s).cfg = s.cfg := rfl
@[simp] theorem emit_counter (x : Symbol) : (emit x s).counter = s.counter := rfl
@[simp] theorem emit_counterMinLimit (x : Symbol) : (emit x s).counterMinLimit = s.counterMinLimit := rfl
@[simp] theorem emit_counterMaxLimit (x : Symbol) : (emit x s).counterMaxLimit = s.counterMaxLimit := rfl
@[simp] theorem emit_wrap (x : Symbol) : (emit x s).wrap = s.wrap := rfl
@[simp] theorem emit_hist (x : Symbol) : (emit x s).hist = s.hist := rfl
@[simp] theorem emit_btnState (x : Symbol) : (emit x s).btnState = s.btnState := rfl
@[simp] theorem emit_pressStart (x : Symbol) : (emit x s).pressStart = s.pressStart := rfl
@[simp] theorem emit_prevBtn (x : Symbol) : (emit x s).prevBtn = s.prevBtn := rfl
@[simp] theorem emit_doutOe (x : Symbol) : (emit x s).doutOe = s.doutOe := rfl
@[simp] theorem emit_dout (x : Symbol) : (emit x s).dout = s.dout := rfl
@[simp] theorem emit_pue (x : Symbol) : (emit x s).pue = s.pue := rfl
@[simp] theorem emit_pcie (x : Symbol) : (emit x s).pcie = s.pcie := rfl
@[simp] theorem emit_pcpend (x : Symbol) : (emit x s).pcpend = s.pcpend := rfl
@[simp] theorem emit_ie (x : Symbol) : (emit x s).ie = s.ie := rfl
@[simp] theorem emit_tx (x : Symbol) : (emit x s).tx = s.tx := rfl
@[simp] theorem emit_sym (x : Symbol) : (emit x s).sym = s.sym ++ [x] := rfl
@[simp] theorem emit_wire (x : Symbol) : (emit x s).wire = s.wire := rfl
@[simp] theorem emit_context (x : Symbol) : (emit x s).context = s.context := rfl
@[simp] theorem emit_pinA (x : Symbol) : (emit x s).pinA = s.pinA := rfl
@[simp] theorem emit_pinB (x : Symbol) : (emit x s).pinB = s.pinB := rfl
@[simp] theorem emit_pinBtn (x : Symbol) : (emit x s).pinBtn = s.pinBtn := rfl
@[simp] theorem emit_now (x : Symbol) : (emit x s).now = s.now := rfl
@[simp] theorem emit_arrays (x : Symbol) : (emit x s).arrays = s.arrays := rfl
@[simp] theorem emit_ret (x : Symbol) : (emit x s).ret = s.ret := rfl
@[simp] theorem emit_script (x : Symbol) : (emit x s).script = s.script := rfl
@[simp] theorem emit_freeIndex (x : Symbol) : (emit x s).freeIndex = s.freeIndex := rfl

/-! ### setTx -/

@[simp] theorem setTx_cfg (p : TxPos) : (setTx p s).cfg = s.cfg := rfl
@[simp] theorem setTx_counter (p : TxPos) : (setTx p s).counter = s.counter := rfl
@[simp] theorem setTx_counterMinLimit (p : TxPos) : (setTx p s).counterMinLimit = s.counterMinLimit := rfl
@[simp] theorem setTx_counterMaxLimit (p : TxPos) : (setTx p s).counterMaxLimit = s.counterMaxLimit := rfl
@[simp] theorem setTx_wrap (p : TxPos) : (setTx p s).wrap = s.wrap := rfl
@[simp] theorem setTx_hist (p : TxPos) : (setTx p s).hist = s.hist := rfl
@[simp] theorem setTx_btnState (p : TxPos) : (setTx p s).btnState = s.btnState := rfl
@[simp] theorem setTx_pressStart (p : TxPos) : (setTx p s).pressStart = s.pressStart := rfl
@[simp] theorem setTx_prevBtn (p : TxPos) : (setTx p s).prevBtn = s.prevBtn := rfl
@[simp] theorem setTx_doutOe (p : TxPos) : (setTx p s).doutOe = s.doutOe := rfl
@[simp] theorem setTx_dout (p : TxPos) : (setTx p s).dout = s.dout := rfl
@[simp] theorem setTx_pue (p : TxPos) : (setTx p s).pue = s.pue := rfl
@[simp] theorem setTx_pcie (p : TxPos) : (setTx p s).pcie = s.pcie := rfl
@[simp] theorem setTx_pcpend (p : TxPos) : (setTx p s).pcpend = s.pcpend := rfl
@[simp] theorem setTx_ie (p : TxPos) : (setTx p s).ie = s.ie := rfl
@[simp] theorem setTx_tx (p : TxPos) : (setTx p s).tx = p := rfl
@[simp] theorem setTx_sym (p : TxPos) : (setTx p s).sym = s.sym := rfl
@[simp] theorem setTx_wire (p : TxPos) : (setTx p s).wire = s.wire := rfl
@[simp] theorem setTx_context (p : TxPos) : (setTx p s).context = s.context := rfl
@[simp] theorem setTx_pinA (p : TxPos) : (setTx p s).pinA = s.pinA := rfl
@[simp] theorem setTx_pinB (p : TxPos) : (setTx p s).pinB = s.pinB := rfl
@[simp] theorem setTx_pinBtn (p : TxPos) : (setTx p s).pinBtn = s.pinBtn := rfl
@[simp] theorem setTx_now (p : TxPos) : (setTx p s).now = s.now := rfl
@[simp] theorem setTx_arrays (p : TxPos) : (setTx p s).arrays = s.arrays := rfl
@[simp] theorem setTx_ret (p : TxPos) : (setTx p s).ret = s.ret := rfl
@[simp] theorem setTx_script (p : TxPos) : (setTx p s).script = s.script := rfl
@[simp] theorem setTx_freeIndex (p : TxPos) : (setTx p s).freeIndex = s.freeIndex := rfl

/-! ### setBtnState -/

@[simp] theorem setBtnState_cfg (v : BtnState) : (setBtnState v s).cfg = s.cfg := rfl
@[simp] theorem setBtnState_counter (v : BtnState) : (setBtnState v s).counter = s.counter := rfl
@[simp] theorem setBtnState_counterMinLimit (v : BtnState) : (setBtnState v s).counterMinLimit = s.counterMinLimit := rfl
@[simp] theorem setBtnState_counterMaxLimit (v : BtnState) : (setBtnState v s).counterMaxLimit = s.counterMaxLimit := rfl
@[simp] theorem setBtnState_wrap (v : BtnState) : (setBtnState v s).wrap = s.wrap := rfl
@[simp] theorem setBtnState_hist (v : BtnState) : (setBtnState v s).hist = s.hist := rfl
@[simp] theorem setBtnState_btnState (v : BtnState) : (setBtnState v s).btnState = v := rfl
@[simp] theorem setBtnState_pressStart (v : BtnState) : (setBtnState v s).pressStart = s.pressStart := rfl
@[simp] theorem setBtnState_prevBtn (v : BtnState) : (setBtnState v s).prevBtn = s.prevBtn := rfl
@[simp] theorem setBtnState_doutOe (v : BtnState) : (setBtnState v s).doutOe = s.doutOe := rfl
@[simp] theorem setBtnState_dout (v : BtnState) : (setBtnState v s).dout = s.dout := rfl
@[simp] theorem setBtnState_pue (v : BtnState) : (setBtnState v s).pue = s.pue := rfl
@[simp] theorem setBtnState_pcie (v : BtnState) : (setBtnState v s).pcie = s.pcie := rfl
@[simp] theorem setBtnState_pcpend (v : BtnState) : (setBtnState v s).pcpend = s.pcpend := rfl
@[simp] theorem setBtnState_ie (v : BtnState) : (setBtnState v s).ie = s.ie := rfl
@[simp] theorem setBtnState_tx (v : BtnState) : (setBtnState v s).tx = s.tx := rfl
@[simp] theorem setBtnState_sym (v : BtnState) : (setBtnState v s).sym = s.sym := rfl
@[simp] theorem setBtnState_wire (v : BtnState) : (setBtnState v s).wire = s.wire := rfl
@[simp] theorem setBtnState_context (v : BtnState) : (setBtnState v s).context = s.context := rfl
@[simp] theorem setBtnState_pinA (v : BtnState) : (setBtnState v s).pinA = s.pinA := rfl
@[simp] theorem setBtnState_pinB (v : BtnState) : (setBtnState v s).pinB = s.pinB := rfl
@[simp] theorem setBtnState_pinBtn (v : BtnState) : (setBtnState v s).pinBtn = s.pinBtn := rfl
@[simp] theorem setBtnState_now (v : BtnState) : (setBtnState v s).now = s.now := rfl
@[simp] theorem setBtnState_arrays (v : BtnState) : (setBtnState v s).arrays = s.arrays := rfl
@[simp] theorem setBtnState_ret (v : BtnState) : (setBtnState v s).ret = s.ret := rfl
@[simp] theorem setBtnState_script (v : BtnState) : (setBtnState v s).script = s.script := rfl
@[simp] theorem setBtnState_freeIndex (v : BtnState) : (setBtnState v s).freeIndex = s.freeIndex := rfl

/-! ### enterHandler -/

@[simp] theorem enterHandler_cfg : (enterHandler s).cfg = s.cfg := rfl
@[simp] theorem enterHandler_counter : (enterHandler s).counter = s.counter := rfl
@[simp] theorem enterHandler_counterMinLimit : (enterHandler s).counterMinLimit = s.counterMinLimit := rfl
@[simp] theorem enterHandler_counterMaxLimit : (enterHandler s).counterMaxLimit = s.counterMaxLimit := rfl
@[simp] theorem enterHandler_wrap : (enterHandler s).wrap = s.wrap := rfl
@[simp] theorem enterHandler_hist : (enterHandler s).hist = s.hist := rfl
@[simp] theorem enterHandler_btnState : (enterHandler s).btnState = s.btnState := rfl
@[simp] theorem enterHandler_pressStart : (enterHandler s).pressStart = s.pressStart := rfl
@[simp] theorem enterHandler_prevBtn : (enterHandler s).prevBtn = s.prevBtn := rfl
@[simp] theorem enterHandler_doutOe : (enterHandler s).doutOe = s.doutOe := rfl
@[simp] theorem enterHandler_dout : (enterHandler s).dout = s.dout := rfl
@[simp] theorem enterHandler_pue : (enterHandler s).pue = s.pue := rfl
@[simp] theorem enterHandler_pcie : (enterHandler s).pcie = s.pcie := rfl
@[simp] theorem enterHandler_pcpend : (enterHandler s).pcpend = false := rfl
@[simp] theorem enterHandler_ie : (enterHandler s).ie = s.ie := rfl
@[simp] theorem enterHandler_tx : (enterHandler s).tx = s.tx := rfl
@[simp] theorem enterHandler_sym : (enterHandler s).sym = s.sym := rfl
@[simp] theorem enterHandler_wire : (enterHandler s).wire = s.wire := rfl
@[simp] theorem enterHandler_context : (enterHandler s).context = .interrupt := rfl
@[simp] theorem enterHandler_pinA : (enterHandler s).pinA = s.pinA := rfl
@[simp] theorem enterHandler_pinB : (enterHandler s).pinB = s.pinB := rfl
@[simp] theorem enterHandler_pinBtn : (enterHandler s).pinBtn = s.pinBtn := rfl
@[simp] theorem enterHandler_now : (enterHandler s).now = s.now := rfl
@[simp] theorem enterHandler_arrays : (enterHandler s).arrays = s.arrays := rfl
@[simp] theorem enterHandler_ret : (enterHandler s).ret = s.ret := rfl
@[simp] theorem enterHandler_script : (enterHandler s).script = s.script := rfl
@[simp] theorem enterHandler_freeIndex : (enterHandler s).freeIndex = s.freeIndex := rfl

/-! ### leaveHandler -/

@[simp] theorem leaveHandler_cfg : (leaveHandler s).cfg = s.cfg := rfl
@[simp] theorem leaveHandler_counter : (leaveHandler s).counter = s.counter := rfl
@[simp] theorem leaveHandler_counterMinLimit : (leaveHandler s).counterMinLimit = s.counterMinLimit := rfl
@[simp] theorem leaveHandler_counterMaxLimit : (leaveHandler s).counterMaxLimit = s.counterMaxLimit := rfl
@[simp] theorem leaveHandler_wrap : (leaveHandler s).wrap = s.wrap := rfl
@[simp] theorem leaveHandler_hist : (leaveHandler s).hist = s.hist := rfl
@[simp] theorem leaveHandler_btnState : (leaveHandler s).btnState = s.btnState := rfl
@[simp] theorem leaveHandler_pressStart : (leaveHandler s).pressStart = s.pressStart := rfl
@[simp] theorem leaveHandler_prevBtn : (leaveHandler s).prevBtn = s.prevBtn := rfl
@[simp] theorem leaveHandler_doutOe : (leaveHandler s).doutOe = s.doutOe := rfl
@[simp] theorem leaveHandler_dout : (leaveHandler s).dout = s.dout := rfl
@[simp] theorem leaveHandler_pue : (leaveHandler s).pue = s.pue := rfl
@[simp] theorem leaveHandler_pcie : (leaveHandler s).pcie = s.pcie := rfl
@[simp] theorem leaveHandler_pcpend : (leaveHandler s).pcpend = s.pcpend := rfl
@[simp] theorem leaveHandler_ie : (leaveHandler s).ie = s.ie := rfl
@[simp] theorem leaveHandler_tx : (leaveHandler s).tx = s.tx := rfl
@[simp] theorem leaveHandler_sym : (leaveHandler s).sym = s.sym := rfl
@[simp] theorem leaveHandler_wire : (leaveHandler s).wire = s.wire := rfl
@[simp] theorem leaveHandler_context : (leaveHandler s).context = .foreground := rfl
@[simp] theorem leaveHandler_pinA : (leaveHandler s).pinA = s.pinA := rfl
@[simp] theorem leaveHandler_pinB : (leaveHandler s).pinB = s.pinB := rfl
@[simp] theorem leaveHandler_pinBtn : (leaveHandler s).pinBtn = s.pinBtn := rfl
@[simp] theorem leaveHandler_now : (leaveHandler s).now = s.now := rfl
@[simp] theorem leaveHandler_arrays : (leaveHandler s).arrays = s.arrays := rfl
@[simp] theorem leaveHandler_ret : (leaveHandler s).ret = s.ret := rfl
@[simp] theorem leaveHandler_script : (leaveHandler s).script = s.script := rfl
@[simp] theorem leaveHandler_freeIndex : (leaveHandler s).freeIndex = s.freeIndex := rfl

/-! ### takeSample -/

@[simp] theorem takeSample_cfg (a b : Bool) : (takeSample a b s).cfg = s.cfg := rfl
@[simp] theorem takeSample_counter (a b : Bool) : (takeSample a b s).counter = s.counter := rfl
@[simp] theorem takeSample_counterMinLimit (a b : Bool) : (takeSample a b s).counterMinLimit = s.counterMinLimit := rfl
@[simp] theorem takeSample_counterMaxLimit (a b : Bool) : (takeSample a b s).counterMaxLimit = s.counterMaxLimit := rfl
@[simp] theorem takeSample_wrap (a b : Bool) : (takeSample a b s).wrap = s.wrap := rfl
@[simp] theorem takeSample_hist (a b : Bool) : (takeSample a b s).hist = pushSample s.hist a b := rfl
@[simp] theorem takeSample_btnState (a b : Bool) : (takeSample a b s).btnState = s.btnState := rfl
@[simp] theorem takeSample_pressStart (a b : Bool) : (takeSample a b s).pressStart = s.pressStart := rfl
@[simp] theorem takeSample_prevBtn (a b : Bool) : (takeSample a b s).prevBtn = s.prevBtn := rfl
@[simp] theorem takeSample_doutOe (a b : Bool) : (takeSample a b s).doutOe = s.doutOe := rfl
@[simp] theorem takeSample_dout (a b : Bool) : (takeSample a b s).dout = s.dout := rfl
@[simp] theorem takeSample_pue (a b : Bool) : (takeSample a b s).pue = s.pue := rfl
@[simp] theorem takeSample_pcie (a b : Bool) : (takeSample a b s).pcie = s.pcie := rfl
@[simp] theorem takeSample_pcpend (a b : Bool) : (takeSample a b s).pcpend = s.pcpend := rfl
@[simp] theorem takeSample_ie (a b : Bool) : (takeSample a b s).ie = s.ie := rfl
@[simp] theorem takeSample_tx (a b : Bool) : (takeSample a b s).tx = s.tx := rfl
@[simp] theorem takeSample_sym (a b : Bool) : (takeSample a b s).sym = s.sym := rfl
@[simp] theorem takeSample_wire (a b : Bool) : (takeSample a b s).wire = s.wire := rfl
@[simp] theorem takeSample_context (a b : Bool) : (takeSample a b s).context = s.context := rfl
@[simp] theorem takeSample_pinA (a b : Bool) : (takeSample a b s).pinA = s.pinA := rfl
@[simp] theorem takeSample_pinB (a b : Bool) : (takeSample a b s).pinB = s.pinB := rfl
@[simp] theorem takeSample_pinBtn (a b : Bool) : (takeSample a b s).pinBtn = s.pinBtn := rfl
@[simp] theorem takeSample_now (a b : Bool) : (takeSample a b s).now = s.now := rfl
@[simp] theorem takeSample_arrays (a b : Bool) : (takeSample a b s).arrays = s.arrays := rfl
@[simp] theorem takeSample_ret (a b : Bool) : (takeSample a b s).ret = s.ret := rfl
@[simp] theorem takeSample_script (a b : Bool) : (takeSample a b s).script = s.script := rfl
@[simp] theorem takeSample_freeIndex (a b : Bool) : (takeSample a b s).freeIndex = s.freeIndex := rfl

/-! ### applyIncrement -/

@[simp] theorem applyIncrement_cfg (d : Int) : (applyIncrement d s).cfg = s.cfg := rfl
@[simp] theorem applyIncrement_counter (d : Int) : (applyIncrement d s).counter = (limitLow s (limitHigh s s.counter d).1 (limitHigh s s.counter d).2).1 +
      (limitLow s (limitHigh s s.counter d).1 (limitHigh s s.counter d).2).2 := rfl
@[simp] theorem applyIncrement_counterMinLimit (d : Int) : (applyIncrement d s).counterMinLimit = s.counterMinLimit := rfl
@[simp] theorem applyIncrement_counterMaxLimit (d : Int) : (applyIncrement d s).counterMaxLimit = s.counterMaxLimit := rfl
@[simp] theorem applyIncrement_wrap (d : Int) : (applyIncrement d s).wrap = s.wrap := rfl
@[simp] theorem applyIncrement_hist (d : Int) : (applyIncrement d s).hist = s.hist := rfl
@[simp] theorem applyIncrement_btnState (d : Int) : (applyIncrement d s).btnState = s.btnState := rfl
@[simp] theorem applyIncrement_pressStart (d : Int) : (applyIncrement d s).pressStart = s.pressStart := rfl
@[simp] theorem applyIncrement_prevBtn (d : Int) : (applyIncrement d s).prevBtn = s.prevBtn := rfl
@[simp] theorem applyIncrement_doutOe (d : Int) : (applyIncrement d s).doutOe = s.doutOe := rfl
@[simp] theorem applyIncrement_dout (d : Int) : (applyIncrement d s).dout = s.dout := rfl
@[simp] theorem applyIncrement_pue (d : Int) : (applyIncrement d s).pue = s.pue := rfl
@[simp] theorem applyIncrement_pcie (d : Int) : (applyIncrement d s).pcie = s.pcie := rfl
@[simp] theorem applyIncrement_pcpend (d : Int) : (applyIncrement d s).pcpend = s.pcpend := rfl
@[simp] theorem applyIncrement_ie (d : Int) : (applyIncrement d s).ie = s.ie := rfl
@[simp] theorem applyIncrement_tx (d : Int) : (applyIncrement d s).tx = s.tx := rfl
@[simp] theorem applyIncrement_sym (d : Int) : (applyIncrement d s).sym = s.sym := rfl
@[simp] theorem applyIncrement_wire (d : Int) : (applyIncrement d s).wire = s.wire := rfl
@[simp] theorem applyIncrement_context (d : Int) : (applyIncrement d s).context = s.context := rfl
@[simp] theorem applyIncrement_pinA (d : Int) : (applyIncrement d s).pinA = s.pinA := rfl
@[simp] theorem applyIncrement_pinB (d : Int) : (applyIncrement d s).pinB = s.pinB := rfl
@[simp] theorem applyIncrement_pinBtn (d : Int) : (applyIncrement d s).pinBtn = s.pinBtn := rfl
@[simp] theorem applyIncrement_now (d : Int) : (applyIncrement d s).now = s.now := rfl
@[simp] theorem applyIncrement_arrays (d : Int) : (applyIncrement d s).arrays = s.arrays := rfl
@[simp] theorem applyIncrement_ret (d : Int) : (applyIncrement d s).ret = s.ret := rfl
@[simp] theorem applyIncrement_script (d : Int) : (applyIncrement d s).script = s.script := rfl
@[simp] theorem applyIncrement_freeIndex (d : Int) : (applyIncrement d s).freeIndex = s.freeIndex := rfl

/-! ### storeLevel -/

@[simp] theorem storeLevel_cfg (lvl : Bool) : (storeLevel lvl s).cfg = s.cfg := rfl
@[simp] theorem storeLevel_counter (lvl : Bool) : (storeLevel lvl s).counter = s.counter := rfl
@[simp] theorem storeLevel_counterMinLimit (lvl : Bool) : (storeLevel lvl s).counterMinLimit = s.counterMinLimit := rfl
@[simp] theorem storeLevel_counterMaxLimit (lvl : Bool) : (storeLevel lvl s).counterMaxLimit = s.counterMaxLimit := rfl
@[simp] theorem storeLevel_wrap (lvl : Bool) : (storeLevel lvl s).wrap = s.wrap := rfl
@[simp] theorem storeLevel_hist (lvl : Bool) : (storeLevel lvl s).hist = s.hist := rfl
@[simp] theorem storeLevel_btnState (lvl : Bool) : (storeLevel lvl s).btnState = s.btnState := rfl
@[simp] theorem storeLevel_pressStart (lvl : Bool) : (storeLevel lvl s).pressStart = s.pressStart := rfl
@[simp] theorem storeLevel_prevBtn (lvl : Bool) : (storeLevel lvl s).prevBtn = lvl := rfl
@[simp] theorem storeLevel_doutOe (lvl : Bool) : (storeLevel lvl s).doutOe = s.doutOe := rfl
@[simp] theorem storeLevel_dout (lvl : Bool) : (storeLevel lvl s).dout = s.dout := rfl
@[simp] theorem storeLevel_pue (lvl : Bool) : (storeLevel lvl s).pue = s.pue := rfl
@[simp] theorem storeLevel_pcie (lvl : Bool) : (storeLevel lvl s).pcie = s.pcie := rfl
@[simp] theorem storeLevel_pcpend (lvl : Bool) : (storeLevel lvl s).pcpend = s.pcpend := rfl
@[simp] theorem storeLevel_ie (lvl : Bool) : (storeLevel lvl s).ie = s.ie := rfl
@[simp] theorem storeLevel_tx (lvl : Bool) : (storeLevel lvl s).tx = s.tx := rfl
@[simp] theorem storeLevel_sym (lvl : Bool) : (storeLevel lvl s).sym = s.sym := rfl
@[simp] theorem storeLevel_wire (lvl : Bool) : (storeLevel lvl s).wire = s.wire := rfl
@[simp] theorem storeLevel_context (lvl : Bool) : (storeLevel lvl s).context = s.context := rfl
@[simp] theorem storeLevel_pinA (lvl : Bool) : (storeLevel lvl s).pinA = s.pinA := rfl
@[simp] theorem storeLevel_pinB (lvl : Bool) : (storeLevel lvl s).pinB = s.pinB := rfl
@[simp] theorem storeLevel_pinBtn (lvl : Bool) : (storeLevel lvl s).pinBtn = s.pinBtn := rfl
@[simp] theorem storeLevel_now (lvl : Bool) : (storeLevel lvl s).now = s.now := rfl
@[simp] theorem storeLevel_arrays (lvl : Bool) : (storeLevel lvl s).arrays = s.arrays := rfl
@[simp] theorem storeLevel_ret (lvl : Bool) : (storeLevel lvl s).ret = s.ret := rfl
@[simp] theorem storeLevel_script (lvl : Bool) : (storeLevel lvl s).script = s.script := rfl
@[simp] theorem storeLevel_freeIndex (lvl : Bool) : (storeLevel lvl s).freeIndex = s.freeIndex := rfl

/-! ### setTime -/

@[simp] theorem setTime_cfg (t : Nat) : (setTime t s).cfg = s.cfg := rfl
@[simp] theorem setTime_counter (t : Nat) : (setTime t s).counter = s.counter := rfl
@[simp] theorem setTime_counterMinLimit (t : Nat) : (setTime t s).counterMinLimit = s.counterMinLimit := rfl
@[simp] theorem setTime_counterMaxLimit (t : Nat) : (setTime t s).counterMaxLimit = s.counterMaxLimit := rfl
@[simp] theorem setTime_wrap (t : Nat) : (setTime t s).wrap = s.wrap := rfl
@[simp] theorem setTime_hist (t : Nat) : (setTime t s).hist = s.hist := rfl
@[simp] theorem setTime_btnState (t : Nat) : (setTime t s).btnState = s.btnState := rfl
@[simp] theorem setTime_pressStart (t : Nat) : (setTime t s).pressStart = s.pressStart := rfl
@[simp] theorem setTime_prevBtn (t : Nat) : (setTime t s).prevBtn = s.prevBtn := rfl
@[simp] theorem setTime_doutOe (t : Nat) : (setTime t s).doutOe = s.doutOe := rfl
@[simp] theorem setTime_dout (t : Nat) : (setTime t s).dout = s.dout := rfl
@[simp] theorem setTime_pue (t : Nat) : (setTime t s).pue = s.pue := rfl
@[simp] theorem setTime_pcie (t : Nat) : (setTime t s).pcie = s.pcie := rfl
@[simp] theorem setTime_pcpend (t : Nat) : (setTime t s).pcpend = s.pcpend := rfl
@[simp] theorem setTime_ie (t : Nat) : (setTime t s).ie = s.ie := rfl
@[simp] theorem setTime_tx (t : Nat) : (setTime t s).tx = s.tx := rfl
@[simp] theorem setTime_sym (t : Nat) : (setTime t s).sym = s.sym := rfl
@[simp] theorem setTime_wire (t : Nat) : (setTime t s).wire = s.wire := rfl
@[simp] theorem setTime_context (t : Nat) : (setTime t s).context = s.context := rfl
@[simp] theorem setTime_pinA (t : Nat) : (setTime t s).pinA = s.pinA := rfl
@[simp] theorem setTime_pinB (t : Nat) : (setTime t s).pinB = s.pinB := rfl
@[simp] theorem setTime_pinBtn (t : Nat) : (setTime t s).pinBtn = s.pinBtn := rfl
@[simp] theorem setTime_now (t : Nat) : (setTime t s).now = t % 2 ^ s.cfg.tw := rfl
@[simp] theorem setTime_arrays (t : Nat) : (setTime t s).arrays = s.arrays := rfl
@[simp] theorem setTime_ret (t : Nat) : (setTime t s).ret = s.ret := rfl
@[simp] theorem setTime_script (t : Nat) : (setTime t s).script = s.script := rfl
@[simp] theorem setTime_freeIndex (t : Nat) : (setTime t s).freeIndex = s.freeIndex := rfl

/-! ### callerStore -/

@[simp] theorem callerStore_cfg (r : ArrayRef) (bs : List Byte) : (callerStore r bs s).cfg = s.cfg := rfl
@[simp] theorem callerStore_counter (r : ArrayRef) (bs : List Byte) : (callerStore r bs s).counter = s.counter := rfl
@[simp] theorem callerStore_counterMinLimit (r : ArrayRef) (bs : List Byte) : (callerStore r bs s).counterMinLimit = s.counterMinLimit := rfl
@[simp] theorem callerStore_counterMaxLimit (r : ArrayRef) (bs : List Byte) : (callerStore r bs s).counterMaxLimit = s.counterMaxLimit := rfl
@[simp] theorem callerStore_wrap (r : ArrayRef) (bs : List Byte) : (callerStore r bs s).wrap = s.wrap := rfl
@[simp] theorem callerStore_hist (r : ArrayRef) (bs : List Byte) : (callerStore r bs s).hist = s.hist := rfl
@[simp] theorem callerStore_btnState (r : ArrayRef) (bs : List Byte) : (callerStore r bs s).btnState = s.btnState := rfl
@[simp] theorem callerStore_pressStart (r : ArrayRef) (bs : List Byte) : (callerStore r bs s).pressStart = s.pressStart := rfl
@[simp] theorem callerStore_prevBtn (r : ArrayRef) (bs : List Byte) : (callerStore r bs s).prevBtn = s.prevBtn := rfl
@[simp] theorem callerStore_doutOe (r : ArrayRef) (bs : List Byte) : (callerStore r bs s).doutOe = s.doutOe := rfl
@[simp] theorem callerStore_dout (r : ArrayRef) (bs : List Byte) : (callerStore r bs s).dout = s.dout := rfl
@[simp] theorem callerStore_pue (r : ArrayRef) (bs : List Byte) : (callerStore r bs s).pue = s.pue := rfl
@[simp] theorem callerStore_pcie (r : ArrayRef) (bs : List Byte) : (callerStore r bs s).pcie = s.pcie := rfl
@[simp] theorem callerStore_pcpend (r : ArrayRef) (bs : List Byte) : (callerStore r bs s).pcpend = s.pcpend := rfl
@[simp] theorem callerStore_ie (r : ArrayRef) (bs : List Byte) : (callerStore r bs s).ie = s.ie := rfl
@[simp] theorem callerStore_tx (r : ArrayRef) (bs : List Byte) : (callerStore r bs s).tx = s.tx := rfl
@[simp] theorem callerStore_sym (r : ArrayRef) (bs : List Byte) : (callerStore r bs s).sym = s.sym := rfl
@[simp] theorem callerStore_wire (r : ArrayRef) (bs : List Byte) : (callerStore r bs s).wire = s.wire := rfl
@[simp] theorem callerStore_context (r : ArrayRef) (bs : List Byte) : (callerStore r bs s).context = s.context := rfl
@[simp] theorem callerStore_pinA (r : ArrayRef) (bs : List Byte) : (callerStore r bs s).pinA = s.pinA := rfl
@[simp] theorem callerStore_pinB (r : ArrayRef) (bs : List Byte) : (callerStore r bs s).pinB = s.pinB := rfl
@[simp] theorem callerStore_pinBtn (r : ArrayRef) (bs : List Byte) : (callerStore r bs s).pinBtn = s.pinBtn := rfl
@[simp] theorem callerStore_now (r : ArrayRef) (bs : List Byte) : (callerStore r bs s).now = s.now := rfl
@[simp] theorem callerStore_arrays (r : ArrayRef) (bs : List Byte) : (callerStore r bs s).arrays = s.arrays.store r bs := rfl
@[simp] theorem callerStore_ret (r : ArrayRef) (bs : List Byte) : (callerStore r bs s).ret = s.ret := rfl
@[simp] theorem callerStore_script (r : ArrayRef) (bs : List Byte) : (callerStore r bs s).script = s.script := rfl
@[simp] theorem callerStore_freeIndex (r : ArrayRef) (bs : List Byte) : (callerStore r bs s).freeIndex = s.freeIndex := rfl

/-! ### The composed updates -/

@[simp] theorem atomic_eq (f : State → State) : atomic f s = resume (f (suspend s)) := rfl

end Sys2Proof.Machine
end

