-- ==== Sys2Proof/Laws/Decode.lean ====
section
/-! SUPPORT. The field laws of the decoder and the encoder: a field read off the front of its own encoding gives its
value and leaves the rest. -/

namespace Sys2Proof

@[simp] theorem length_bitsOfNat (n v : Nat) : (bitsOfNat n v).length = n := by
  induction n with
  | zero => rfl
  | succ n ih => simp [bitsOfNat, ih]

theorem natOfBits_lt (bs : Bits) : natOfBits bs < 2 ^ bs.length := by
  induction bs with
  | nil => simp [natOfBits]
  | cons b bs ih =>
    simp only [natOfBits, List.length_cons, pow_succ]
    cases b <;> simp <;> omega

theorem natOfBits_bitsOfNat (n v : Nat) : natOfBits (bitsOfNat n v) = v % 2 ^ n := by
  induction n with
  | zero => simp [bitsOfNat, natOfBits, Nat.mod_one]
  | succ n ih =>
    simp only [bitsOfNat, natOfBits, ih, length_bitsOfNat]
    rw [Nat.mod_pow_succ, Nat.testBit_eq_decide_div_mod_eq]
    rcases Nat.mod_two_eq_zero_or_one (v / 2 ^ n) with h | h <;> simp [h, Nat.add_comm]

theorem bitsOfNat_natOfBits (bs : Bits) : bitsOfNat bs.length (natOfBits bs) = bs := by
  induction bs with
  | nil => rfl
  | cons b bs ih =>
    have hlt := natOfBits_lt bs
    have tail : ∀ n v, n ≤ bs.length → bitsOfNat n (b.toNat * 2 ^ bs.length + v) = bitsOfNat n v := by
      intro n v hn
      induction n with
      | zero => rfl
      | succ n ihn =>
        simp only [bitsOfNat, ihn (by omega)]
        congr 1
        obtain ⟨d, hd⟩ : ∃ d, bs.length = n + 1 + d := ⟨bs.length - (n + 1), by omega⟩
        have hdvd : b.toNat * 2 ^ bs.length = 2 ^ (n + 1) * (b.toNat * 2 ^ d) := by rw [hd]; ring
        rw [Nat.testBit_eq_decide_div_mod_eq, Nat.testBit_eq_decide_div_mod_eq, hdvd]
        congr 1
        rw [pow_succ, mul_assoc, Nat.mul_add_div (by positivity)]
        rw [Nat.mul_add_mod]
    simp only [natOfBits, List.length_cons, bitsOfNat, tail _ _ le_rfl, ih, List.cons.injEq, and_true]
    rw [Nat.testBit_eq_decide_div_mod_eq, Nat.add_comm, Nat.add_mul_div_right _ _ (by positivity),
      Nat.div_eq_of_lt hlt]
    cases b <;> simp

theorem takeBits_eq (n acc : Nat) (bs : Bits) : takeBits n acc bs =
    if n ≤ bs.length then some (acc * 2 ^ n + natOfBits (bs.take n), bs.drop n) else none := by
  induction n generalizing acc bs with
  | zero => simp [takeBits, natOfBits]
  | succ n ih =>
    cases bs with
    | nil => simp [takeBits]
    | cons b bs =>
      simp only [takeBits, ih, List.length_cons, Nat.add_le_add_iff_right, List.take_succ_cons, List.drop_succ_cons,
        natOfBits, List.length_take]
      split
      · rename_i h
        rw [Nat.min_eq_left h]
        congr 2
        ring
      · rfl

/-- A field is the number its bits stand for (R10), and is there when there are bits enough. -/
theorem readField_eq (n : Nat) (bs : Bits) (k : Nat → Bits → Decoded) :
    readField n bs k = if n ≤ bs.length then k (natOfBits (bs.take n)) (bs.drop n) else .error .truncated := by
  rw [readField, takeBits_eq]
  by_cases h : n ≤ bs.length <;> simp [h]

/-- A field read off the front of its own encoding. -/
theorem readField_bitsOfNat (n v : Nat) (rest : Bits) (k : Nat → Bits → Decoded) :
    readField n (bitsOfNat n v ++ rest) k = k (v % 2 ^ n) rest := by
  have h : n ≤ (bitsOfNat n v ++ rest).length := by simp
  have ht : (bitsOfNat n v ++ rest).take n = bitsOfNat n v := by
    rw [List.take_append_of_le_length (by simp), List.take_of_length_le (by simp)]
  have hd : (bitsOfNat n v ++ rest).drop n = rest := by
    rw [List.drop_append_of_le_length (by simp), List.drop_of_length_le (by simp), List.nil_append]
  rw [readField_eq, if_pos h, ht, hd, natOfBits_bitsOfNat]

@[simp] theorem readByte_bitsOfNat (v : Byte) (rest : Bits) (k : Byte → Bits → Decoded) :
    readByte (bitsOfNat 8 v.toNat ++ rest) k = k v rest := by
  rw [readByte, readField_bitsOfNat, Nat.mod_eq_of_lt v.isLt, BitVec.ofNat_toNat, BitVec.setWidth_eq]

@[simp] theorem readBit_cons (b : Bool) (rest : Bits) (k : Bool → Bits → Decoded) :
    readBit (b :: rest) k = k b rest := by
  cases b <;> simp [readBit, readField, takeBits]

theorem signedOfNat_natOfSigned (n : Nat) (v : Int) (hn : 1 ≤ n) (lo : -(2 ^ (n - 1) : Nat) ≤ v)
    (hi : v ≤ (2 ^ (n - 1) : Nat) - 1) : signedOfNat n (natOfSigned n v) = v := by
  obtain ⟨m, rfl⟩ : ∃ m, n = m + 1 := ⟨n - 1, by omega⟩
  simp only [Nat.add_sub_cancel] at lo hi
  have hp : (2 ^ (m + 1) : Nat) = 2 * 2 ^ m := by rw [pow_succ, mul_comm]
  simp only [signedOfNat, natOfSigned, Nat.add_sub_cancel, hp]
  generalize 2 ^ m = p at *
  rcases lt_or_ge v 0 with h | h
  · have e : v % ((2 * p : Nat) : Int) = v + (2 * p : Nat) := by
      rw [← Int.add_emod_right, Int.emod_eq_of_lt] <;> omega
    rw [e]; split <;> omega
  · rw [Int.emod_eq_of_lt h (by omega)]; split <;> omega

theorem natOfSigned_signedOfNat (n u : Nat) (h : u < 2 ^ n) : natOfSigned n (signedOfNat n u) = u := by
  simp only [natOfSigned, signedOfNat]
  generalize 2 ^ n = p at *
  split
  · rw [Int.emod_eq_of_lt (by omega) (by omega)]; simp
  · have e : ((u : Int) - (p : Int)) % (p : Int) = u := by
      rw [Int.sub_emod_right, Int.emod_eq_of_lt (by omega) (by omega)]
    rw [e]; simp

theorem natOfSigned_lt (n : Nat) (v : Int) : natOfSigned n v < 2 ^ n := by
  have hp : (0 : Int) < (2 ^ n : Nat) := by positivity
  have h1 := Int.emod_nonneg v (ne_of_gt hp)
  have h2 := Int.emod_lt_of_pos v hp
  simp only [natOfSigned]
  omega

/-- A signed field read off the front of its own encoding. -/
theorem readSigned_signedField (c : Config) (v : Int) (rest : Bits) (k : Int → Bits → Decoded) (hw : 1 ≤ c.w)
    (hv : c.fitsSigned v = true) : readSigned c (signedField c v ++ rest) k = k v rest := by
  simp only [Config.fitsSigned, Bool.and_eq_true] at hv
  rw [readSigned, signedField, readField_bitsOfNat, Nat.mod_eq_of_lt (natOfSigned_lt _ _),
    signedOfNat_natOfSigned c.w v hw (of_decide_eq_true hv.1) (of_decide_eq_true hv.2)]

/-- What a successful field read says of the bits. -/
theorem readField_ok {n : Nat} {bs : Bits} {k : Nat → Bits → Decoded} {x : Instr × Bits}
    (h : readField n bs k = .ok x) :
    ∃ v rest, v < 2 ^ n ∧ bs = bitsOfNat n v ++ rest ∧ k v rest = .ok x := by
  rw [readField_eq] at h
  split at h
  · rename_i hn
    have hl : (bs.take n).length = n := by simp [hn]
    refine ⟨natOfBits (bs.take n), bs.drop n, ?_, ?_, h⟩
    · have := natOfBits_lt (bs.take n); rwa [hl] at this
    · have := bitsOfNat_natOfBits (bs.take n)
      rw [hl] at this
      rw [this, List.take_append_drop]
  · cases h

theorem readByte_ok {bs : Bits} {k : Byte → Bits → Decoded} {x : Instr × Bits} (h : readByte bs k = .ok x) :
    ∃ v rest, bs = bitsOfNat 8 (BitVec.toNat v) ++ rest ∧ k v rest = .ok x := by
  obtain ⟨v, rest, hv, e, h⟩ := readField_ok h
  refine ⟨BitVec.ofNat 8 v, rest, ?_, h⟩
  rw [BitVec.toNat_ofNat, Nat.mod_eq_of_lt hv, e]

theorem readBit_ok {bs : Bits} {k : Bool → Bits → Decoded} {x : Instr × Bits} (h : readBit bs k = .ok x) :
    ∃ b rest, bs = b :: rest ∧ k b rest = .ok x := by
  obtain ⟨v, rest, hv, e, h⟩ := readField_ok h
  refine ⟨v == 1, rest, ?_, h⟩
  have hv : v < 2 := hv
  rw [e]
  interval_cases v <;> rfl

/-- A field read as two's complement is a value of the width. -/
theorem fitsSigned_signedOfNat (c : Config) (u : Nat) (hw : 1 ≤ c.w) (h : u < 2 ^ c.w) :
    c.fitsSigned (signedOfNat c.w u) = true := by
  obtain ⟨m, hm⟩ : ∃ m, c.w = m + 1 := ⟨c.w - 1, by omega⟩
  simp only [Config.fitsSigned, Config.intMin, Config.intMax, signedOfNat, hm, Nat.add_sub_cancel] at *
  rw [show (2 ^ (m + 1) : Nat) = 2 * 2 ^ m by rw [pow_succ, mul_comm]] at h ⊢
  generalize 2 ^ m = p at *
  simp only [Bool.and_eq_true, decide_eq_true_eq]
  split <;> omega

theorem readSigned_ok {c : Config} {bs : Bits} {k : Int → Bits → Decoded} {x : Instr × Bits} (hw : 1 ≤ c.w)
    (h : readSigned c bs k = .ok x) :
    ∃ v rest, c.fitsSigned v = true ∧ bs = signedField c v ++ rest ∧ k v rest = .ok x := by
  obtain ⟨u, rest, hu, e, h⟩ := readField_ok h
  refine ⟨signedOfNat c.w u, rest, fitsSigned_signedOfNat c u hw hu, ?_, h⟩
  rw [signedField, natOfSigned_signedOfNat _ _ hu, e]

end Sys2Proof
end

