-- ==== Sys2Proof/Laws/Memory.lean ====
section
/-! SUPPORT. The laws of the caller's arrays: read after write, and that a write keeps the canonical form. -/

namespace Sys2Proof.Machine

theorem Memory.wf_nil : Memory.wf [] := ⟨.nil, by simp⟩

theorem Memory.array_store_same (m : Memory) (r : ArrayRef) (bs : List Byte) (h : m.wf) :
    (m.store r bs).array r = bs := by
  induction m with
  | nil => by_cases hb : bs = [] <;> simp [Memory.store, Memory.array, hb]
  | cons e m ih =>
    obtain ⟨k, v⟩ := e
    have hm : Memory.wf m := ⟨(List.pairwise_cons.1 h.1).2, fun e he => h.2 e (by simp [he])⟩
    have hk : ∀ x ∈ m, k < x.1 := (List.pairwise_cons.1 h.1).1
    have absent : ∀ (l : Memory), (∀ x ∈ l, r < x.1) → l.array r = [] := by
      intro l hl
      induction l with
      | nil => rfl
      | cons x l ihl =>
        have := hl x (by simp)
        simp only [Memory.array]
        rw [if_neg (Nat.ne_of_gt this)]
        exact ihl fun y hy => hl y (by simp [hy])
    simp only [Memory.store]
    split
    · rename_i hlt
      have hr : ∀ x ∈ (k, v) :: m, r < x.1 := by
        intro x hx
        rcases List.mem_cons.1 hx with rfl | hx
        · exact hlt
        · exact lt_trans hlt (hk x hx)
      split
      · rename_i hb; rw [hb]; exact absent _ hr
      · simp [Memory.array]
    · split
      · rename_i hrk
        split
        · rename_i hb; rw [hb]; exact absent _ (by intro x hx; rw [hrk]; exact hk x hx)
        · simp [Memory.array]
      · rename_i hne
        simp only [Memory.array]
        rw [if_neg (fun h => hne h.symm)]
        exact ih hm

theorem Memory.array_store_other (m : Memory) (r r' : ArrayRef) (bs : List Byte) (hne : r' ≠ r) :
    (m.store r bs).array r' = m.array r' := by
  have hne' : r ≠ r' := fun h => hne h.symm
  induction m with
  | nil => by_cases hb : bs = [] <;> simp [Memory.store, Memory.array, hb, hne']
  | cons e m ih =>
    obtain ⟨k, v⟩ := e
    simp only [Memory.store]
    split
    · split <;> simp [Memory.array, hne']
    · split
      · rename_i hrk
        subst hrk
        split <;> simp [Memory.array, hne']
      · simp [Memory.array, ih]

theorem Memory.mem_store (m : Memory) (r : ArrayRef) (bs : List Byte) (e : ArrayRef × List Byte)
    (he : e ∈ m.store r bs) : e ∈ m ∨ (e = (r, bs) ∧ bs ≠ []) := by
  induction m with
  | nil =>
    by_cases hb : bs = [] <;> simp [Memory.store, hb] at he
    exact .inr ⟨he, hb⟩
  | cons x m ih =>
    obtain ⟨k, v⟩ := x
    simp only [Memory.store] at he
    split at he
    · split at he
      · exact .inl he
      · rcases List.mem_cons.1 he with h | h
        · exact .inr ⟨h, ‹_›⟩
        · exact .inl h
    · split at he
      · split at he
        · exact .inl (List.mem_cons_of_mem _ he)
        · rcases List.mem_cons.1 he with h | h
          · exact .inr ⟨h, ‹_›⟩
          · exact .inl (List.mem_cons_of_mem _ h)
      · rcases List.mem_cons.1 he with h | h
        · exact .inl (by simp [h])
        · rcases ih h with h | h
          · exact .inl (List.mem_cons_of_mem _ h)
          · exact .inr h

theorem Memory.store_wf (m : Memory) (r : ArrayRef) (bs : List Byte) (h : m.wf) : (m.store r bs).wf := by
  constructor
  · induction m with
    | nil => by_cases hb : bs = [] <;> simp [Memory.store, hb]
    | cons x m ih =>
      obtain ⟨k, v⟩ := x
      have hp := List.pairwise_cons.1 h.1
      have hm : Memory.wf m := ⟨hp.2, fun e he => h.2 e (by simp [he])⟩
      simp only [Memory.store]
      split
      · rename_i hlt
        split
        · exact h.1
        · refine List.pairwise_cons.2 ⟨?_, h.1⟩
          intro y hy
          rcases List.mem_cons.1 hy with rfl | hy
          · exact hlt
          · exact lt_trans hlt (hp.1 y hy)
      · split
        · rename_i hrk
          split
          · exact hp.2
          · exact List.pairwise_cons.2 ⟨fun y hy => by rw [hrk]; exact hp.1 y hy, hp.2⟩
        · rename_i h1 h2
          refine List.pairwise_cons.2 ⟨?_, ih hm⟩
          intro y hy
          rcases Memory.mem_store _ _ _ _ hy with hy | ⟨rfl, -⟩
          · exact hp.1 y hy
          · exact lt_of_le_of_ne (Nat.le_of_not_lt h1) fun hkr => h2 hkr.symm
  · intro e he
    rcases Memory.mem_store _ _ _ _ he with he | ⟨rfl, hb⟩
    · exact h.2 e he
    · exact hb

/-- What `PX_ARRAY` reads is what its arrays hold, when they are long enough (R51, R79). -/
theorem readTriplets_eq (m : Memory) (r g b : ArrayRef) (n pix : Nat) (hr : pix + n ≤ (m.array r).length)
    (hg : pix + n ≤ (m.array g).length) (hb : pix + n ≤ (m.array b).length) :
    readTriplets m r g b n pix = some ((List.range n).map fun i =>
      ⟨(m.array r).getD (pix + i) 0, (m.array g).getD (pix + i) 0, (m.array b).getD (pix + i) 0⟩) := by
  induction n generalizing pix with
  | zero => rfl
  | succ n ih =>
    have h := ih (pix + 1) (by omega) (by omega) (by omega)
    have e : readTriplet m r g b pix =
        some ⟨(m.array r).getD pix 0, (m.array g).getD pix 0, (m.array b).getD pix 0⟩ := by
      simp only [readTriplet, memRead, List.getElem?_eq_getElem (show pix < (m.array r).length by omega),
        List.getElem?_eq_getElem (show pix < (m.array g).length by omega),
        List.getElem?_eq_getElem (show pix < (m.array b).length by omega), List.getD_eq_getElem?_getD,
        Option.getD_some]
    simp only [readTriplets, e, h, List.range_succ_eq_map, List.map_cons, List.map_map, Nat.add_zero]
    congr 3
    funext i
    simp [Function.comp, Nat.add_assoc, Nat.add_comm 1 i]

/-- A too-short array stops the reads (R51, U1). -/
theorem readTriplets_none (m : Memory) (r g b : ArrayRef) (n pix : Nat) (hn : 0 < n)
    (h : (m.array r).length < pix + n ∨ (m.array g).length < pix + n ∨ (m.array b).length < pix + n) :
    readTriplets m r g b n pix = none := by
  induction n generalizing pix with
  | zero => omega
  | succ n ih =>
    rcases Nat.eq_zero_or_pos n with rfl | hpos
    · have e : readTriplet m r g b pix = none := by
        simp only [readTriplet, memRead]
        rcases h with h | h | h
        · rw [List.getElem?_eq_none (show (m.array r).length ≤ pix by omega)]; split <;> simp_all
        · rw [List.getElem?_eq_none (show (m.array g).length ≤ pix by omega)]
        · rw [List.getElem?_eq_none (show (m.array b).length ≤ pix by omega)]; split <;> simp_all
      simp [readTriplets, e]
    · have := ih (pix + 1) hpos (by omega)
      simp only [readTriplets, this]
      split <;> simp_all

end Sys2Proof.Machine
end

