-- ==== Sys2Proof/Laws/Pixel.lean ====
section
/-! SUPPORT. What the procedures of the transmitter do, each said once as one equation. -/

namespace Sys2Proof.Machine

variable (s : State)

/-- The whole effect of `SendBit` (R104). -/
theorem sendBit_eq (v : Bool) : sendBit v s =
    { s with
      tx := s.tx.withPhase .low
      dout := false
      sym := s.sym ++ [bitSymbol v]
      wire := s.wire ++ symbolSegments s.cfg (bitSymbol v) } := by
  cases v <;> cases h : s.tx <;>
    simp [sendBit, setTx, drive, delay, emitSeg, emit, bitSymbol, highNs, lowNs, symbolSegments, TxPos.withPhase, h]

@[simp] theorem withPhase_withPhase (p q : Phase) (x : TxPos) : (x.withPhase p).withPhase q = x.withPhase q := by
  cases x <;> rfl

@[simp] theorem withBit_withPhase_withBit (i j : Fin 8) (p q : Phase) (x : TxPos) :
    (((x.withBit i).withPhase p).withBit j).withPhase q = (x.withBit j).withPhase q := by
  cases x <;> rfl

theorem bits_of_byte (v : Byte) :
    byteSymbols v = [bitSymbol (byteBit v 7), bitSymbol (byteBit v 6), bitSymbol (byteBit v 5), bitSymbol (byteBit v 4),
      bitSymbol (byteBit v 3), bitSymbol (byteBit v 2), bitSymbol (byteBit v 1), bitSymbol (byteBit v 0)] := by
  simp [byteSymbols, List.range_succ, bitSymbol, byteBit, BitVec.getMsbD]

/-- The whole effect of `SendByte` (R105). -/
theorem sendByte_eq (v : Byte) : sendByte v s =
    { s with
      tx := (s.tx.withBit 0).withPhase .low
      dout := false
      sym := s.sym ++ byteSymbols v
      wire := s.wire ++ (byteSymbols v).flatMap (symbolSegments s.cfg) } := by
  simp [sendByte, bitOrder, sendBit_eq, setTx, bits_of_byte, List.flatMap_cons, List.append_assoc]

/-- The whole effect of `SendPixel` (R106). -/
theorem sendPixel_eq (t : Triplet) : sendPixel t s =
    { s with
      tx := ((s.tx.withCh .blue).withBit 0).withPhase .low
      dout := false
      sym := s.sym ++ pixelSymbols t
      wire := s.wire ++ (pixelSymbols t).flatMap (symbolSegments s.cfg) } := by
  cases h : s.tx <;>
    simp [sendPixel, sendByte_eq, setTx, pixelSymbols, List.flatMap_append, List.append_assoc, h, TxPos.withCh,
      TxPos.withBit, TxPos.withPhase]

/-- The whole effect of the pixel loop (R25, R101, R103), but for the position it ends at. -/
theorem sendPixels_eq (ts : List Triplet) (pix : Nat) : ∃ p, sendPixels ts pix s =
    { s with
      tx := p
      dout := if ts = [] then s.dout else false
      sym := s.sym ++ ts.flatMap pixelSymbols
      wire := s.wire ++ (ts.flatMap pixelSymbols).flatMap (symbolSegments s.cfg) } := by
  induction ts generalizing s pix with
  | nil => exact ⟨s.tx, by simp [sendPixels]⟩
  | cons t ts ih =>
    obtain ⟨p, hp⟩ := ih (sendPixel t (setTx (.sending pix .green 7 .high) s)) (pix + 1)
    refine ⟨p, ?_⟩
    rw [sendPixels, hp]
    simp [sendPixel_eq, setTx, List.flatMap_append, List.append_assoc]

/-- The whole effect of `Show` (R107). -/
theorem showFrame_eq : showFrame s =
    { s with
      tx := .idle
      sym := s.sym ++ [.latch]
      wire := s.wire ++ [⟨false, s.cfg.latchCyc⟩] } := rfl

/-- The whole effect of a frame of at least one pixel. -/
theorem sendFrame_eq (ts : List Triplet) (hne : ts ≠ []) : sendFrame ts s =
    { s with
      ie := true
      tx := .idle
      dout := false
      sym := s.sym ++ frameSymbols ts
      wire := s.wire ++ frameSegments s.cfg ts } := by
  obtain ⟨p, hp⟩ := sendPixels_eq (suspend s) ts 0
  show resume (showFrame (sendPixels ts 0 (suspend s))) = _
  rw [hp, showFrame_eq]
  simp [resume, hne, frameSymbols, frameSegments, symbolSegments, List.flatMap_append, List.append_assoc]

/-- A frame ends with the line low (R104, R107). -/
theorem traceLevel_frame (c : Config) (ts : List Triplet) (wire : List Segment) :
    traceLevel (wire ++ frameSegments c ts) = false := by
  simp [traceLevel, frameSegments, frameSymbols, symbolSegments, List.getLast?_append]

/-! ### The actions of a frame (R102, R104 to R106) -/

@[simp] theorem perform_nil : perform [] s = s := rfl

@[simp] theorem perform_cons (act : FrameAction) (rest : List FrameAction) :
    perform (act :: rest) s = perform rest (act s) := rfl

@[simp] theorem perform_append (first rest : List FrameAction) :
    perform (first ++ rest) s = perform rest (perform first s) := List.foldl_append

@[simp] theorem sendByte_cfg (v : Byte) : (sendByte v s).cfg = s.cfg := by rw [sendByte_eq]

@[simp] theorem sendPixel_cfg (t : Triplet) : (sendPixel t s).cfg = s.cfg := by rw [sendPixel_eq]

/-- The actions of a bit are `SendBit`. -/
theorem perform_bitActions (v : Bool) : perform (bitActions s.cfg v) s = sendBit v s := rfl

/-- The actions of some bits, in order, are `SendBit` of each. -/
theorem perform_bits (v : Byte) (bits : List (Fin 8)) (c : Config) (hc : s.cfg = c) :
    perform (bits.flatMap fun bit => (fun s => setTx (s.tx.withBit bit) s) :: bitActions c (byteBit v bit)) s =
      bits.foldl (fun s bit => sendBit (byteBit v bit) (setTx (s.tx.withBit bit) s)) s := by
  induction bits generalizing s with
  | nil => rfl
  | cons bit bits ih =>
    have e : perform (bitActions c (byteBit v bit)) (setTx (s.tx.withBit bit) s) =
        sendBit (byteBit v bit) (setTx (s.tx.withBit bit) s) := by rw [← hc]; exact perform_bitActions _ _
    simp only [List.flatMap_cons, List.cons_append, perform_cons, perform_append, List.foldl_cons, e]
    exact ih _ (by rw [sendBit_eq, ← hc]; rfl)

/-- The actions of a byte are `SendByte`. -/
theorem perform_byteActions (v : Byte) (c : Config) (hc : s.cfg = c) : perform (byteActions c v) s = sendByte v s :=
  perform_bits s v bitOrder c hc

/-- Some actions that each leave `IE` leave it. -/
theorem perform_ie (actions : List FrameAction) (h : ∀ act ∈ actions, ∀ s, (act s).ie = s.ie) :
    (perform actions s).ie = s.ie := by
  induction actions generalizing s with
  | nil => rfl
  | cons act rest ih =>
    rw [perform_cons, ih _ fun a ha => h a (List.mem_cons_of_mem _ ha), h act List.mem_cons_self]

end Sys2Proof.Machine
end

