-- ==== Sys2Proof/Laws/Exec.lean ====
section
/-! SUPPORT. What the guards of a meaning say (where a guarded meaning answers next, its guard held), and the inversion
of `exec`: everything an instruction can do when it answers next, said once. -/

namespace Sys2Proof.Machine

theorem inContext_of {c : Context} {s : State} (h : s.context = c) (o : Out) : inContext c s o = o := by
  simp [inContext, h]

theorem inContext_next {c : Context} {s t : State} {o : Out} (h : inContext c s o = .next t) :
    s.context = c ∧ o = .next t := by
  unfold inContext at h
  split at h
  · exact ⟨‹_›, h⟩
  · cases h

theorem canTransmit_of {s : State} (hd : s.doutOe = true) (ht : s.cfg.TimingOk) (o : Out) : canTransmit s o = o := by
  rw [canTransmit, if_neg (by simp [hd]), if_pos ht]

theorem canTransmit_next {s t : State} {o : Out} (h : canTransmit s o = .next t) :
    s.doutOe = true ∧ s.cfg.TimingOk ∧ o = .next t := by
  unfold canTransmit at h
  split at h
  · cases h
  · split at h
    · exact ⟨by simpa using ‹¬ s.doutOe = false›, ‹_›, h⟩
    · cases h

theorem whileSuspended_next {s t : State} {o : Out} (h : whileSuspended s o = .next t) :
    s.context = .foreground ∧ s.doutOe = true ∧ s.ie = false ∧ o = .next t := by
  obtain ⟨hc, h⟩ := inContext_next h
  split at h
  · cases h
  · split at h
    · cases h
    · exact ⟨hc, by simpa using ‹¬ s.doutOe = false›, by simpa using ‹¬ s.ie = true›, h⟩

theorem duringFrame_next {s t : State} {o : Out} (h : duringFrame s o = .next t) :
    s.tx.isSending = true ∧ o = .next t := by
  unfold duringFrame at h
  split at h
  · exact ⟨‹_›, h⟩
  · cases h

theorem andThen_next {o : Out} {f : State → Out} {t : State} (h : andThen o f = .next t) :
    ∃ s, o = .next s ∧ f s = .next t := by
  cases o with
  | next s => exact ⟨s, rfl, h⟩
  | fault r => cases h
  | refused r => cases h

theorem selectEntry_next {i : BitVec 4} {s t : State} (h : selectEntry i s = .next t) :
    s.context = .interrupt ∧ t = applyIncrement (s.cfg.lut i) s := by
  obtain ⟨hc, h⟩ := inContext_next h
  exact ⟨hc, by cases h; rfl⟩

/-! ### The inversion of exec -/

/-- What a frame of some triplets leaves. -/
def frameState (s : State) (ts : List Triplet) : State :=
  { s with
    ie := true
    tx := .idle
    dout := false
    sym := s.sym ++ frameSymbols ts
    wire := s.wire ++ frameSegments s.cfg ts }

/-- What a bit symbol leaves. -/
def bitState (s : State) (v : Bool) : State :=
  { s with
    tx := s.tx.withPhase .low
    dout := false
    sym := s.sym ++ [bitSymbol v]
    wire := s.wire ++ symbolSegments s.cfg (bitSymbol v) }

/-- Everything an instruction can do when it answers next. -/
def Effect (i : Instr) (s t : State) : Prop :=
  match i with
  | .pxBegin => s.context = .foreground ∧ t = { s with doutOe := true }
  | .pxUniform r g b => s.context = .foreground ∧ s.doutOe = true ∧ s.cfg.TimingOk ∧
      t = frameState s (List.replicate s.cfg.k ⟨r, g, b⟩)
  | .pxArray r g b => s.context = .foreground ∧ s.doutOe = true ∧ s.cfg.TimingOk ∧
      ∃ ts, readTriplets s.arrays r g b s.cfg.k 0 = some ts ∧ t = frameState s ts
  | .encBegin => s.context = .foreground ∧ t = { s with pue := ⟨true, true, true⟩, pcie := true }
  | .encGet => s.context = .foreground ∧ t = { s with ie := true, ret := .detents (detents s.cfg s.counter) }
  | .encSet v lo hi w => s.context = .foreground ∧
      ((hi ≤ lo ∧ t = { s with ret := .status false }) ∨
        (lo < hi ∧ t = deliver (.status true) (resume (replaceCounter v lo hi w s))))
  | .btnGet => s.context = .foreground ∧ t = { s with btnState := .none, ie := true, ret := .click s.btnState }
  | .encIsrQ a b => s.context = .interrupt ∧
      t = applyIncrement (s.cfg.lut (pushSample s.hist a b)) (takeSample a b s)
  | .encIsrB lvl n => s.context = .interrupt ∧ t = storeLevel lvl (buttonEdge lvl (timeOperand s.cfg n) s)
  | .unassigned3 | .unassignedA | .unassignedB | .unassignedC | .unassignedD | .unassignedE | .unassignedF => False
  | .lut0 | .lut1 | .lut2 | .lut3 | .lut4 | .lut5 | .lut6 | .lut7 | .lut8 | .lut9 | .lut10 | .lut11 | .lut12
  | .lut13 | .lut14 | .lut15 => s.context = .interrupt ∧ ∃ j, t = applyIncrement (s.cfg.lut j) s
  | .bit0 => s.context = .foreground ∧ s.doutOe = true ∧ s.ie = false ∧ s.tx.isSending = true ∧ t = bitState s false
  | .bit1 => s.context = .foreground ∧ s.doutOe = true ∧ s.ie = false ∧ s.tx.isSending = true ∧ t = bitState s true
  | .latch => s.context = .foreground ∧ s.doutOe = true ∧ s.ie = false ∧
      t = { s with tx := .idle, sym := s.sym ++ [.latch], wire := s.wire ++ [⟨false, s.cfg.latchCyc⟩] }
  | .btnStateNone => s.context = .foreground ∧ s.ie = false ∧ t = { s with btnState := .none }
  | .btnStateShortClick => s.context = .interrupt ∧ t = { s with btnState := .shortClick }
  | .btnStateLongClick => s.context = .interrupt ∧ t = { s with btnState := .longClick }
  | .btnStateUnreachable => False
  | .resultFail => s.context = .foreground ∧ t = { s with ret := .status false }
  | .resultOk => s.context = .foreground ∧ t = { s with ret := .status true }

theorem readTriplets_length {m : Memory} {r g b : ArrayRef} {n pix : Nat} {ts : List Triplet}
    (h : readTriplets m r g b n pix = some ts) : ts.length = n := by
  induction n generalizing pix ts with
  | zero => cases h; rfl
  | succ n ih =>
    simp only [readTriplets] at h
    split at h
    · rename_i hts
      cases h
      simp [ih hts]
    · cases h

theorem sendFrame_frameState (s : State) (ts : List Triplet) (hl : ts.length = s.cfg.k) (hk : 1 ≤ s.cfg.k) :
    sendFrame ts s = frameState s ts :=
  sendFrame_eq s ts fun h => by subst h; simp at hl; omega

theorem pxUniform_next {r g b : Byte} {s t : State} (h : execPxUniform r g b s = .next t) :
    Effect (.pxUniform r g b) s t := by
  obtain ⟨hc, h⟩ := inContext_next h
  obtain ⟨hd, ht, h⟩ := canTransmit_next h
  rw [sendFrame_frameState _ _ (by simp) ht.1] at h
  exact ⟨hc, hd, ht, by cases h; rfl⟩

theorem pxArray_next {r g b : ArrayRef} {s t : State} (h : execPxArray r g b s = .next t) :
    Effect (.pxArray r g b) s t := by
  obtain ⟨hc, h⟩ := inContext_next h
  obtain ⟨hd, ht, h⟩ := canTransmit_next h
  split at h
  · rename_i ts hts
    rw [sendFrame_frameState _ _ (readTriplets_length hts) ht.1] at h
    exact ⟨hc, hd, ht, ts, hts, by cases h; rfl⟩
  · cases h

theorem encSet_next {v lo hi : Int} {w : Bool} {s t : State} (h : execEncSet v lo hi w s = .next t) :
    Effect (.encSet v lo hi w) s t := by
  obtain ⟨hc, h⟩ := inContext_next h
  refine ⟨hc, ?_⟩
  rcases le_or_gt hi lo with hle | hlt
  · rw [if_pos hle] at h
    exact .inl ⟨hle, by cases h; rfl⟩
  · rw [if_neg (by omega)] at h
    exact .inr ⟨hlt, by cases h; rfl⟩

/-- Whatever answers next has its effect and no other. -/
theorem exec_next {i : Instr} {s t : State} (h : exec i s = .next t) : Effect i s t := by
  cases i with
  | pxUniform r g b => exact pxUniform_next h
  | pxArray r g b => exact pxArray_next h
  | encSet v lo hi w => exact encSet_next h
  | bit0 =>
    obtain ⟨hc, hd, hi, h⟩ := whileSuspended_next h
    obtain ⟨ht, h⟩ := duringFrame_next h
    rw [sendBit_eq] at h
    exact ⟨hc, hd, hi, ht, by cases h; rfl⟩
  | bit1 =>
    obtain ⟨hc, hd, hi, h⟩ := whileSuspended_next h
    obtain ⟨ht, h⟩ := duringFrame_next h
    rw [sendBit_eq] at h
    exact ⟨hc, hd, hi, ht, by cases h; rfl⟩
  | latch =>
    obtain ⟨hc, hd, hi, h⟩ := whileSuspended_next h
    exact ⟨hc, hd, hi, by cases h; rfl⟩
  | btnStateNone =>
    obtain ⟨hc, h⟩ := inContext_next h
    split at h
    · cases h
    · rename_i hi
      exact ⟨hc, by simpa using hi, by cases h; rfl⟩
  | lut0 | lut1 | lut2 | lut3 | lut4 | lut5 | lut6 | lut7 | lut8 | lut9 | lut10 | lut11 | lut12 | lut13 | lut14
  | lut15 =>
    obtain ⟨hc, h⟩ := selectEntry_next h
    exact ⟨hc, _, h⟩
  | unassigned3 | unassignedA | unassignedB | unassignedC | unassignedD | unassignedE | unassignedF
  | btnStateUnreachable => cases h
  | pxBegin | encBegin | encGet | btnGet | encIsrQ | encIsrB | btnStateShortClick | btnStateLongClick | resultFail
  | resultOk =>
    obtain ⟨hc, h⟩ := inContext_next h
    exact ⟨hc, by cases h; rfl⟩

/-- A transmit operation that answers next sent a frame of K triplets. -/
theorem transmit_next {i : Instr} {s t : State} (hi : i.isTransmit = true) (h : exec i s = .next t) :
    s.context = .foreground ∧ s.doutOe = true ∧ s.cfg.TimingOk ∧ ∃ ts, ts.length = s.cfg.k ∧ t = frameState s ts := by
  cases i with
  | pxUniform r g b =>
    obtain ⟨hc, hd, ht, h⟩ := exec_next h
    exact ⟨hc, hd, ht, _, by simp, h⟩
  | pxArray r g b =>
    obtain ⟨hc, hd, ht, ts, hts, h⟩ := exec_next h
    exact ⟨hc, hd, ht, ts, readTriplets_length hts, h⟩
  | _ => cases hi

end Sys2Proof.Machine
end

