-- ==== Sys2Proof/Laws/PerInstr.lean ====
section
/-! SUPPORT. A law of every instruction as syntax, one lemma per constructor: its encoding has the one length of its
operation (R70, R72). -/

namespace Sys2Proof.Laws.EncodeLength

/-- The encoding of the instruction has the length its operand widths give. -/
def Statement (i : Instr) : Prop := ∀ c : Config, (encode c i).length = i.bitLength c

theorem pxBegin : Statement .pxBegin := fun _ => rfl
theorem pxUniform (r g b : Byte) : Statement (.pxUniform r g b) := fun c => by
  simp [encode, Instr.bitLength]
theorem pxArray (r g b : ArrayRef) : Statement (.pxArray r g b) := fun c => by
  simp [encode, Instr.bitLength]; omega
theorem encBegin : Statement .encBegin := fun _ => rfl
theorem encGet : Statement .encGet := fun _ => rfl
theorem encSet (value lo hi : Int) (wrap : Bool) : Statement (.encSet value lo hi wrap) := fun c => by
  simp [encode, signedField, Instr.bitLength]; omega
theorem btnGet : Statement .btnGet := fun _ => rfl
theorem encIsrQ (a b : Bool) : Statement (.encIsrQ a b) := fun c => by
  simp [encode, Instr.bitLength]
theorem encIsrB (lvl : Bool) (t : Nat) : Statement (.encIsrB lvl t) := fun c => by
  simp [encode, Instr.bitLength]; omega
theorem unassigned3 : Statement .unassigned3 := fun _ => rfl
theorem unassignedA : Statement .unassignedA := fun _ => rfl
theorem unassignedB : Statement .unassignedB := fun _ => rfl
theorem unassignedC : Statement .unassignedC := fun _ => rfl
theorem unassignedD : Statement .unassignedD := fun _ => rfl
theorem unassignedE : Statement .unassignedE := fun _ => rfl
theorem unassignedF : Statement .unassignedF := fun _ => rfl
theorem lut0 : Statement .lut0 := fun _ => rfl
theorem lut1 : Statement .lut1 := fun _ => rfl
theorem lut2 : Statement .lut2 := fun _ => rfl
theorem lut3 : Statement .lut3 := fun _ => rfl
theorem lut4 : Statement .lut4 := fun _ => rfl
theorem lut5 : Statement .lut5 := fun _ => rfl
theorem lut6 : Statement .lut6 := fun _ => rfl
theorem lut7 : Statement .lut7 := fun _ => rfl
theorem lut8 : Statement .lut8 := fun _ => rfl
theorem lut9 : Statement .lut9 := fun _ => rfl
theorem lut10 : Statement .lut10 := fun _ => rfl
theorem lut11 : Statement .lut11 := fun _ => rfl
theorem lut12 : Statement .lut12 := fun _ => rfl
theorem lut13 : Statement .lut13 := fun _ => rfl
theorem lut14 : Statement .lut14 := fun _ => rfl
theorem lut15 : Statement .lut15 := fun _ => rfl
theorem bit0 : Statement .bit0 := fun _ => rfl
theorem bit1 : Statement .bit1 := fun _ => rfl
theorem latch : Statement .latch := fun _ => rfl
theorem btnStateNone : Statement .btnStateNone := fun _ => rfl
theorem btnStateShortClick : Statement .btnStateShortClick := fun _ => rfl
theorem btnStateLongClick : Statement .btnStateLongClick := fun _ => rfl
theorem btnStateUnreachable : Statement .btnStateUnreachable := fun _ => rfl
theorem resultFail : Statement .resultFail := fun _ => rfl
theorem resultOk : Statement .resultOk := fun _ => rfl

end Sys2Proof.Laws.EncodeLength
end

