-- ==== Sys2Proof/Laws/Quadrature.lean ====
section
/-! SUPPORT. The lookup table, the clamp and the counter update. -/

namespace Sys2Proof.Machine

/-- Every entry of the table is -1, 0 or +1 (R84, R85). -/
theorem lut_range (c : Config) (i : BitVec 4) : c.lut i = -1 ∨ c.lut i = 0 ∨ c.lut i = 1 := by
  have h : ∀ i : BitVec 4, lutTable.getD i.toNat 0 = -1 ∨ lutTable.getD i.toNat 0 = 0 ∨
      lutTable.getD i.toNat 0 = 1 := by decide
  rcases h i with h | h | h <;> cases hq : c.qdir <;> simp only [Config.lut, h, hq, QDir.sign] <;> decide

/-- The update of the counter is the table of R134, for a counter within its limits. -/
theorem applyIncrement_counterAfter (s : State) (inc : Int) (hinc : inc = -1 ∨ inc = 0 ∨ inc = 1)
    (lo : s.counterMinLimit ≤ s.counter) (hi : s.counter ≤ s.counterMaxLimit) :
    applyIncrement inc s = { s with counter := counterAfter s inc } := by
  have e : (applyIncrement inc s).counter = counterAfter s inc := by
    simp only [applyIncrement_counter, limitHigh, limitLow, counterAfter]
    rcases hinc with rfl | rfl | rfl
    · rcases eq_or_lt_of_le lo with h | h
      · simp [h]
      · simp [h, ne_of_gt h]; omega
    · simp
    · rcases eq_or_lt_of_le hi with h | h
      · simp [h]
      · simp [h, ne_of_lt h]
  unfold applyIncrement at e ⊢
  rw [← e]

/-- The table keeps the counter within its limits (R132). -/
theorem counterAfter_bounds (s : State) (inc : Int) (lo : s.counterMinLimit ≤ s.counter)
    (hi : s.counter ≤ s.counterMaxLimit) :
    s.counterMinLimit ≤ counterAfter s inc ∧ counterAfter s inc ≤ s.counterMaxLimit := by
  unfold counterAfter
  split_ifs <;> omega

/-- Away from the limits the table adds the increment. -/
theorem counterAfter_inside (s : State) (inc : Int) (hinc : inc = -1 ∨ inc = 0 ∨ inc = 1)
    (lo : s.counterMinLimit < s.counter) (hi : s.counter < s.counterMaxLimit) : counterAfter s inc = s.counter + inc := by
  unfold counterAfter
  rcases hinc with rfl | rfl | rfl
  · rw [if_neg (by decide), if_neg (by decide), if_pos lo]; omega
  · rw [if_pos rfl]; omega
  · rw [if_neg (by decide), if_pos (by decide), if_pos hi]

theorem clamp_bounds (v lo hi : Int) (h : lo ≤ hi) : lo ≤ clamp v lo hi ∧ clamp v lo hi ≤ hi := by
  unfold clamp
  split_ifs <;> omega

theorem clamp_mono (u v lo hi : Int) (huv : u ≤ v) (h : lo ≤ hi) : clamp u lo hi ≤ clamp v lo hi := by
  unfold clamp
  split_ifs <;> omega

/-- The safe sub-range scales back into the integer range (R150). -/
theorem scale_limits (c : Config) (hw : 1 ≤ c.s) :
    c.intMin ≤ c.limLo * c.s ∧ c.limHi * c.s ≤ c.intMax ∧ c.limLo ≤ 0 ∧ 0 ≤ c.limHi := by
  have hs : (0 : Int) < c.s := by omega
  have hp : (1 : Int) ≤ (2 ^ (c.w - 1) : Nat) := by exact_mod_cast Nat.one_le_two_pow
  refine ⟨?_, ?_, ?_, ?_⟩
  · have : c.limLo = -((2 ^ (c.w - 1) : Nat) / (c.s : Int)) := by
      rw [Config.limLo, Config.intMin, Int.neg_tdiv, Int.tdiv_eq_ediv_of_nonneg (by omega)]
    rw [this, Config.intMin]
    have := Int.ediv_mul_le ((2 ^ (c.w - 1) : Nat) : Int) (ne_of_gt hs)
    linarith [neg_mul ((2 ^ (c.w - 1) : Nat) / (c.s : Int)) (c.s : Int)]
  · rw [Config.limHi, Int.tdiv_eq_ediv_of_nonneg (by simp only [Config.intMax]; omega)]
    exact Int.ediv_mul_le _ (ne_of_gt hs)
  · rw [Config.limLo, Config.intMin, Int.neg_tdiv, Int.tdiv_eq_ediv_of_nonneg (by omega)]
    have := Int.ediv_nonneg (show (0 : Int) ≤ (2 ^ (c.w - 1) : Nat) by omega) hs.le
    omega
  · rw [Config.limHi, Int.tdiv_eq_ediv_of_nonneg (by simp only [Config.intMax]; omega)]
    exact Int.ediv_nonneg (by simp only [Config.intMax]; omega) hs.le

/-- A successful replacement leaves the counter within its limits, and these in the integer range (R24, R140, R150). -/
theorem replaceCounter_bounds (value lo hi : Int) (w : Bool) (s : State) (hs : 1 ≤ s.cfg.s) (h : lo < hi) :
    let t := replaceCounter value lo hi w s
    t.counterMinLimit ≤ t.counter ∧ t.counter ≤ t.counterMaxLimit ∧ s.cfg.intMin ≤ t.counterMinLimit ∧
      t.counterMaxLimit ≤ s.cfg.intMax := by
  obtain ⟨h1, h2, h3, h4⟩ := scale_limits s.cfg hs
  have hl : s.cfg.limLo ≤ s.cfg.limHi := by omega
  have low := clamp_bounds lo _ _ hl
  have high := clamp_bounds hi _ _ hl
  have v := clamp_bounds value _ _ (clamp_mono lo hi _ _ h.le hl)
  have hp : (0 : Int) ≤ s.cfg.s := by omega
  exact ⟨Int.mul_le_mul_of_nonneg_right v.1 hp, Int.mul_le_mul_of_nonneg_right v.2 hp,
    le_trans h1 (Int.mul_le_mul_of_nonneg_right low.1 hp), le_trans (Int.mul_le_mul_of_nonneg_right high.2 hp) h2⟩

end Sys2Proof.Machine
end

