-- ==== Sys2Proof/Laws/Step.lean ====
section
/-! SUPPORT. What the environment, the handler and one step can do, said once: the raising of the interrupt, the hold
duration, one run of the handler, the inversion of `step`, and runs of scheduled events. -/

namespace Sys2Proof.Machine

/-! ### The hold duration (R168) -/

theorem timeOperand_lt (c : Config) (t : Nat) : timeOperand c t < 2 ^ c.tw := Nat.mod_lt _ (by positivity)

theorem timeOperand_of_lt (c : Config) (t : Nat) (h : t < 2 ^ c.tw) : timeOperand c t = t := Nat.mod_eq_of_lt h

/-- The difference modulo `2^TW`: a time source that wrapped once during the hold is corrected. -/
theorem heldTime_eq (c : Config) (t start : Nat) (ht : t < 2 ^ c.tw) (hs : start < 2 ^ c.tw) :
    heldTime c t start = if start ≤ t then t - start else t + 2 ^ c.tw - start := by
  unfold heldTime
  generalize 2 ^ c.tw = q at *
  split_ifs with h
  · rw [Int.emod_eq_of_lt (by omega) (by omega)]; omega
  · have e : ((t : Int) - start) % (q : Int) = t - start + q := by
      rw [← Int.add_emod_right, Int.emod_eq_of_lt] <;> omega
    rw [e]; omega

/-- The edge of the button writes the flag and the start time only. -/
theorem buttonEdge_eq (lvl : Bool) (t : Nat) (s : State) :
    buttonEdge lvl t s = { s with
      btnState := (buttonEdge lvl t s).btnState
      pressStart := (buttonEdge lvl t s).pressStart } := by
  unfold buttonEdge
  split_ifs <;> rfl

/-- The start time stays a `uTW` value. -/
theorem buttonEdge_pressStart (lvl : Bool) (t : Nat) (s : State) :
    (buttonEdge lvl t s).pressStart = t ∨ (buttonEdge lvl t s).pressStart = s.pressStart := by
  unfold buttonEdge
  split_ifs <;> simp

/-! ### Lines and the raising of the interrupt (R186) -/

theorem raiseOnChange_eq (changed : Bool) (s : State) :
    raiseOnChange changed s = { s with pcpend := s.pcpend || (changed && s.pcie) } := by
  unfold raiseOnChange
  split
  · simp_all
  · have e : (changed && s.pcie) = false := by simp_all
    rw [e, Bool.or_false]

theorem setPin_eq (l : InLine) (v : Bool) (s : State) : setPin l v s = { s with
    pinA := (s.setLevel l v).pinA
    pinB := (s.setLevel l v).pinB
    pinBtn := (s.setLevel l v).pinBtn
    pcpend := s.pcpend || ((s.level l != v) && s.pcie) } := by
  rw [setPin, raiseOnChange_eq]
  cases l <;> rfl

/-- Releasing a line is setting it to some level; it may use up one free value. -/
theorem releasePin_eq (l : InLine) (s : State) :
    ∃ v n, releasePin l s = setPin l v { s with freeIndex := n } := by
  unfold releasePin
  split
  · exact ⟨_, s.freeIndex, rfl⟩
  · exact ⟨_, _, rfl⟩

/-! ### The handler (R190) -/

/-- A run of the handler is the two callbacks between entry and return. -/
theorem runHandler_next {s t : State} (h : runHandler s = .next t) :
    ∃ t1 t2, exec (.encIsrQ s.pinA s.pinB) (enterHandler s) = .next t1 ∧
      exec (.encIsrB s.pinBtn s.now) t1 = .next t2 ∧ t = leaveHandler t2 := by
  unfold runHandler at h
  obtain ⟨t1, h1, h⟩ := andThen_next h
  obtain ⟨t2, h2, h⟩ := andThen_next h
  refine ⟨t1, t2, h1, h2, ?_⟩
  cases h
  rfl

/-- A run always completes, and with this state. -/
theorem runHandler_eq (s : State) : runHandler s = .next (leaveHandler (storeLevel s.pinBtn
    (buttonEdge s.pinBtn (timeOperand s.cfg s.now)
      (applyIncrement (s.cfg.lut (pushSample s.hist s.pinA s.pinB)) (takeSample s.pinA s.pinB (enterHandler s)))))) := by
  simp only [runHandler, execEncIsrQ, execEncIsrB]
  rw [inContext_of (by simp)]
  simp only [andThen]
  rw [inContext_of (by simp)]
  simp

/-- What a run leaves (R192, R194). -/
theorem runHandler_frame {s t : State} (h : runHandler s = .next t) : t = { s with
    pcpend := false
    context := .foreground
    hist := pushSample s.hist s.pinA s.pinB
    counter := t.counter
    btnState := t.btnState
    pressStart := t.pressStart
    prevBtn := s.pinBtn } := by
  rw [runHandler_eq] at h
  cases h
  unfold buttonEdge
  split_ifs <;> rfl

/-! ### The inversion of step -/

/-- What one event does when it answers next. -/
def EventEffect (e : Event) (s t : State) : Prop :=
  match e with
  | .issue bits => ∃ i tail, decode s.cfg .operation bits = .ok (i, tail) ∧ exec i s = .next t
  | .irq => s.handlerEnabled = true ∧ runHandler s = .next t
  | .pin l v => t = setPin l v s
  | .release l => t = releasePin l s
  | .time n => t = setTime n s
  | .callerWrite r bytes => t = callerStore r bytes s

theorem runEvent_next {e : Event} {s t : State} (h : runEvent e s = .next t) : EventEffect e s t := by
  cases e with
  | issue bits =>
    simp only [runEvent, issueOperation] at h
    split at h
    · exact ⟨_, _, ‹_›, h⟩
    · cases h
  | irq =>
    simp only [runEvent, irqStep] at h
    split at h
    · exact ⟨‹_›, h⟩
    · cases h
  | pin | release | time | callerWrite => cases h; rfl

/-- Everything a step can do when it answers next. -/
theorem step_next {s t : State} (h : step s = .next t) :
    (s.script = [] ∧ s.context = .interrupt ∧ t = leaveHandler s) ∨
    (s.script = [] ∧ s.context = .foreground ∧ s.handlerEnabled = true ∧ runHandler s = .next t) ∨
    (s.script = [] ∧ s.context = .foreground ∧ s.handlerEnabled = false ∧ t = s) ∨
    ∃ e rest, s.script = e :: rest ∧ EventEffect e { s with script := rest } t := by
  unfold step at h
  split at h
  · rename_i hs
    unfold idleStep at h
    split at h
    · rename_i hc
      cases h
      exact .inl ⟨hs, hc, rfl⟩
    · rename_i hc
      split at h
      · rename_i he
        exact .inr (.inl ⟨hs, hc, he, h⟩)
      · rename_i he
        cases h
        exact .inr (.inr (.inl ⟨hs, hc, by simpa using he, rfl⟩))
  · rename_i e rest hs
    exact .inr (.inr (.inr ⟨e, rest, hs, runEvent_next h⟩))

/-! ### Runs, one scheduled event at a time -/

theorem run_event {s t : State} {e : Event} {rest : List Event} (n : Nat) (hs : s.script = e :: rest)
    (h : runEvent e { s with script := rest } = .next t) :
    Sys2Proof.core.run (n + 1) s = Sys2Proof.core.run n t := by
  have e1 : step s = .next t := by simp only [step, hs]; exact h
  have e2 : Sys2Proof.core.step s = .next t := e1
  simp only [Host.Core.run, e2]

theorem run_pin {s : State} {l : InLine} {v : Bool} {rest : List Event} (n : Nat) (hs : s.script = .pin l v :: rest) :
    Sys2Proof.core.run (n + 1) s = Sys2Proof.core.run n (setPin l v { s with script := rest }) :=
  run_event n hs rfl

theorem run_time {s : State} {t : Nat} {rest : List Event} (n : Nat) (hs : s.script = .time t :: rest) :
    Sys2Proof.core.run (n + 1) s = Sys2Proof.core.run n { s with script := rest, now := t % 2 ^ s.cfg.tw } :=
  run_event n hs rfl

/-- What a run of the handler leaves, for a counter within its limits (R131, R134, R160). -/
def handled (s : State) : State := { s with
  pcpend := false
  context := .foreground
  hist := pushSample s.hist s.pinA s.pinB
  counter := counterAfter s (s.cfg.lut (pushSample s.hist s.pinA s.pinB))
  btnState := (buttonEdge s.pinBtn (timeOperand s.cfg s.now) s).btnState
  pressStart := (buttonEdge s.pinBtn (timeOperand s.cfg s.now) s).pressStart
  prevBtn := s.pinBtn }

theorem runHandler_handled {s : State} (lo : s.counterMinLimit ≤ s.counter) (hi : s.counter ≤ s.counterMaxLimit) :
    runHandler s = .next (handled s) := by
  rw [runHandler_eq]
  have e := applyIncrement_counterAfter (takeSample s.pinA s.pinB (enterHandler s))
    (s.cfg.lut (pushSample s.hist s.pinA s.pinB)) (lut_range _ _) lo hi
  rw [e]
  simp only [handled, buttonEdge]
  cases hb : s.prevBtn <;> cases hl : s.pinBtn <;> simp [hb, hl] <;> rfl

theorem run_irq {s : State} {rest : List Event} (n : Nat) (hs : s.script = .irq :: rest) (hp : s.pcpend = true)
    (hi : s.ie = true) (hc : s.context = .foreground) (lo : s.counterMinLimit ≤ s.counter)
    (hi' : s.counter ≤ s.counterMaxLimit) :
    Sys2Proof.core.run (n + 1) s = Sys2Proof.core.run n (handled { s with script := rest }) := by
  refine run_event n hs ?_
  have he : State.handlerEnabled { s with script := rest } = true := by simp [State.handlerEnabled, hp, hi, hc]
  simp only [runEvent, irqStep, he, if_true]
  exact runHandler_handled lo hi'

/-! ### The sample history (R80) -/

theorem pushSample_eq (h : BitVec 4) (a b : Bool) : pushSample h a b = h.extractLsb' 0 2 ++ sample a b := by
  revert h a b; decide

theorem pushSample_low (h : BitVec 4) (a b : Bool) : (pushSample h a b).extractLsb' 0 2 = sample a b := by
  revert h a b; decide

end Sys2Proof.Machine
end

