-- ==== Sys2Proof/Tests/Slice0.lean ====
section
/-! SUPPORT. The model's own tests: ill-formed terms the well-formedness check refuses, words written out from the encodings
of 30_encoding.md, single steps whose results stand in 95_test_vectors.md (the vector is named at each test), and for every
statement with hypotheses a concrete state and operands that meet them. -/

namespace Sys2Proof.Tests

open Sys2Proof Sys2Proof.Machine

/-! ### Helpers -/

/-- The outcome is a next state that satisfies the check. -/
def answers (o : Out) (p : State → Bool) : Bool :=
  match o with
  | .next t => p t
  | .fault _ => false
  | .refused _ => false

/-- The outcome is this refusal. -/
def refuses (o : Out) (r : Refusal) : Bool :=
  match o with
  | .next _ => false
  | .fault _ => false
  | .refused q => decide (q = r)

/-- `SYM` of a listing of 95_test_vectors.md: 0 is `BIT0`, 1 is `BIT1`, 2 stands for `L`. -/
def symbols (xs : List Nat) : List Symbol :=
  xs.map fun x => if x = 0 then .bit0 else if x = 1 then .bit1 else .latch

/-- The illustrative parameters (log entry 1). -/
def ill : Config := Config.illustrative

/-- T8: `T1L_NS < T1H_NS` fails. -/
def badTiming : Config := { ill with t1hNs := 600, t1lNs := 900 }

/-- After `PX_BEGIN`. -/
def lineOn : State := { State.reset with doutOe := true }

/-- The caller's arrays 1, 2, 3 and 4 hold `r`, `g`, `b` of the array rows of T3; array 9 is short. -/
def withArrays : State :=
  { lineOn with arrays := [(1, [1, 2]), (2, [3, 4]), (3, [5, 6]), (4, [7, 7]), (9, [1])] }

/-- Start of the vectors of sections I and Q: `ENC_BEGIN; ENC_SET 0, -10, 10, false`. -/
def turned (counter : Int) (wrap : Bool) (hist : BitVec 4) : State :=
  { State.reset with
    counter := counter
    counterMinLimit := -40
    counterMaxLimit := 40
    wrap := wrap
    hist := hist
    pue := ⟨true, true, true⟩
    pcie := true }

/-- The same inside the handler. -/
def turning (counter : Int) (wrap : Bool) (hist : BitVec 4) : State :=
  { turned counter wrap hist with context := .interrupt }

/-- The start of a row of B2. -/
def pressed (prevBtn : Bool) (pressStart : Nat) (btnState : BtnState) : State :=
  { State.reset with
    context := .interrupt
    prevBtn := prevBtn
    pressStart := pressStart
    btnState := btnState }

/-- A bit of pixel 0 is being sent. -/
def inFrame : State := { lineOn with ie := false, tx := .sending 0 .green 7 .high }

/-- The interrupt is pending. -/
def pending : State := { turned 0 false 0 with pinB := true, pcpend := true }

/-! ### Well-formedness: an ill-formed term for each check -/

theorem test_wellFormed_ref_r : (Instr.pxArray 65536 0 0).wellFormed ill = false := by decide
theorem test_wellFormed_ref_g : (Instr.pxArray 0 65536 0).wellFormed ill = false := by decide
theorem test_wellFormed_ref_b : (Instr.pxArray 0 0 65536).wellFormed ill = false := by decide
theorem test_wellFormed_value_high : (Instr.encSet 32768 0 0 true).wellFormed ill = false := by decide
theorem test_wellFormed_value_low : (Instr.encSet (-32769) 0 0 true).wellFormed ill = false := by decide
theorem test_wellFormed_min_high : (Instr.encSet 0 32768 0 true).wellFormed ill = false := by decide
theorem test_wellFormed_min_low : (Instr.encSet 0 (-32769) 0 true).wellFormed ill = false := by decide
theorem test_wellFormed_max_high : (Instr.encSet 0 0 32768 true).wellFormed ill = false := by decide
theorem test_wellFormed_max_low : (Instr.encSet 0 0 (-32769) true).wellFormed ill = false := by decide
theorem test_wellFormed_time : (Instr.encIsrB true 4294967296).wellFormed ill = false := by decide
theorem test_wellFormed_bounds : (Instr.encSet (-32768) 32767 0 false).wellFormed ill = true ∧
    (Instr.encIsrB false 4294967295).wellFormed ill = true ∧ (Instr.pxArray 65535 0 65535).wellFormed ill = true := by
  decide

/-! ### Decoding: every constructor, from the encodings of 30_encoding.md R72, R84, R86, R87, R89 -/

theorem test_decode_pixel :
    decode ill .operation [false, false, false, false] = .ok (.pxBegin, []) ∧
    decode ill .operation [false, false, false, true,
      false, false, false, true, false, false, true, false,
      false, false, true, true, false, true, false, false,
      false, true, false, true, false, true, true, false] = .ok (.pxUniform 0x12 0x34 0x56, []) ∧
    decode { ill with refW := 2 } .operation [false, false, true, false, false, true, true, false, true, true] =
      .ok (.pxArray 1 2 3, []) := ⟨rfl, rfl, rfl⟩

/-- `6 0005 000A 0001 0` with fields of 4 bits: S2 with `W = 4`; and a negative operand (R11). -/
theorem test_decode_encoder :
    decode ill .operation [false, true, false, false] = .ok (.encBegin, []) ∧
    decode ill .operation [false, true, false, true] = .ok (.encGet, []) ∧
    decode { ill with w := 4 } .operation [false, true, true, false,
      false, true, false, true, true, false, true, false, false, false, false, true, false] =
      .ok (.encSet 5 (-6) 1 false, []) ∧
    decode ill .operation [true, false, false, false, false, true] = .ok (.encIsrQ false true, []) :=
  ⟨rfl, rfl, rfl, rfl⟩

/-- `9 0 00000064` (I4). -/
theorem test_decode_button :
    decode ill .operation [false, true, true, true] = .ok (.btnGet, []) ∧
    decode ill .operation ([true, false, false, true, false] ++ List.replicate 24 false ++
      [false, true, true, false, false, true, false, false]) = .ok (.encIsrB false 100, []) := ⟨rfl, rfl⟩

theorem test_decode_unassigned :
    decode ill .operation [false, false, true, true] = .ok (.unassigned3, []) ∧
    decode ill .operation [true, false, true, false] = .ok (.unassignedA, []) ∧
    decode ill .operation [true, false, true, true] = .ok (.unassignedB, []) ∧
    decode ill .operation [true, true, false, false] = .ok (.unassignedC, []) ∧
    decode ill .operation [true, true, false, true] = .ok (.unassignedD, []) ∧
    decode ill .operation [true, true, true, false] = .ok (.unassignedE, []) ∧
    decode ill .operation [true, true, true, true] = .ok (.unassignedF, []) :=
  ⟨rfl, rfl, rfl, rfl, rfl, rfl, rfl⟩

theorem test_decode_lut :
    decode ill .lutEntry [false, false, false, false] = .ok (.lut0, []) ∧
    decode ill .lutEntry [false, false, false, true] = .ok (.lut1, []) ∧
    decode ill .lutEntry [false, false, true, false] = .ok (.lut2, []) ∧
    decode ill .lutEntry [false, false, true, true] = .ok (.lut3, []) ∧
    decode ill .lutEntry [false, true, false, false] = .ok (.lut4, []) ∧
    decode ill .lutEntry [false, true, false, true] = .ok (.lut5, []) ∧
    decode ill .lutEntry [false, true, true, false] = .ok (.lut6, []) ∧
    decode ill .lutEntry [false, true, true, true] = .ok (.lut7, []) ∧
    decode ill .lutEntry [true, false, false, false] = .ok (.lut8, []) ∧
    decode ill .lutEntry [true, false, false, true] = .ok (.lut9, []) ∧
    decode ill .lutEntry [true, false, true, false] = .ok (.lut10, []) ∧
    decode ill .lutEntry [true, false, true, true] = .ok (.lut11, []) ∧
    decode ill .lutEntry [true, true, false, false] = .ok (.lut12, []) ∧
    decode ill .lutEntry [true, true, false, true] = .ok (.lut13, []) ∧
    decode ill .lutEntry [true, true, true, false] = .ok (.lut14, []) ∧
    decode ill .lutEntry [true, true, true, true] = .ok (.lut15, []) :=
  ⟨rfl, rfl, rfl, rfl, rfl, rfl, rfl, rfl, rfl, rfl, rfl, rfl, rfl, rfl, rfl, rfl⟩

theorem test_decode_enumerations :
    decode ill .wireSymbol [false, false] = .ok (.bit0, []) ∧
    decode ill .wireSymbol [false, true] = .ok (.bit1, []) ∧
    decode ill .wireSymbol [true, false] = .ok (.latch, []) ∧
    decode ill .wireSymbol [true, true] = .error .noSuchRow ∧
    decode ill .btnCode [false, false] = .ok (.btnStateNone, []) ∧
    decode ill .btnCode [false, true] = .ok (.btnStateShortClick, []) ∧
    decode ill .btnCode [true, false] = .ok (.btnStateLongClick, []) ∧
    decode ill .btnCode [true, true] = .ok (.btnStateUnreachable, []) ∧
    decode ill .resultCode [false] = .ok (.resultFail, []) ∧
    decode ill .resultCode [true] = .ok (.resultOk, []) :=
  ⟨rfl, rfl, rfl, rfl, rfl, rfl, rfl, rfl, rfl, rfl⟩

/-- Bits too short for their operation are rejected by name (R70: one length per operation). -/
theorem test_decode_truncated :
    decode ill .operation [] = .error .truncated ∧ decode ill .operation [true, false, false, false, true] = .error .truncated :=
  ⟨rfl, rfl⟩

theorem test_decodeTableWord :
    decodeTableWord 8 0x5 = some .encGet ∧ decodeTableWord 8 0x3 = some .unassigned3 ∧
    decodeTableWord 8 0x8 = some (.encIsrQ false false) ∧ decodeTableWord 8 0x6 = some (.encSet 0 0 0 false) ∧
    decodeTableWord 32 0x6543211 = some (.pxUniform 0x12 0x34 0x56) := by
  decide

/-! ### Derived parameters (T5, T8, R6, Q6) -/

theorem test_cyc_16MHz : ill.cyc 400 = 6 ∧ ill.cyc 900 = 14 ∧ ill.cyc 600 = 9 ∧ ill.cyc 350 = 5 ∧ ill.cyc 850 = 13 ∧
    ill.dly 400 = 4 ∧ ill.dly 900 = 12 := by decide

theorem test_cyc_8MHz : ({ ill with fCpu := 8000000 } : Config).cyc 350 = 2 ∧
    ({ ill with fCpu := 8000000 } : Config).dly 350 = 0 ∧ ({ ill with fCpu := 1000000 } : Config).dly 400 = -2 := by
  decide

theorem test_latch : ill.latchNs = 50000 ∧ ill.latchCyc = 800 ∧ ({ ill with tResetNs := 6250 } : Config).latchNs = 7000 ∧
    ({ ill with tResetNs := 6250 } : Config).latchCyc = 112 ∧ ({ ill with gNs := 4000 } : Config).latchCyc = 832 := by
  decide

theorem test_timing : ill.TimingOk ∧ ¬ badTiming.TimingOk ∧
    ¬ ({ ill with t0hNs := 900, t0lNs := 400 } : Config).TimingOk ∧
    ({ ill with t0hNs := 350, t0lNs := 800, t1hNs := 700, t1lNs := 600 } : Config).TimingOk := by decide

theorem test_limits : ill.limLo = -8192 ∧ ill.limHi = 8191 ∧ ({ ill with s := 2 } : Config).limLo = -16384 ∧
    ({ ill with w := 8 } : Config).limHi = 31 := by decide

theorem test_trunc : detents ill (-3) = 0 ∧ detents ill (-5) = -1 ∧ detents ill 7 = 1 ∧ detents ill (-32768) = -8192 := by
  decide

/-! ### Operations -/

/-- S8 and R100. -/
theorem test_pxBegin : answers (exec .pxBegin State.reset) (fun t => decide (t = lineOn)) = true := by decide

set_option maxRecDepth 4000 in
/-- P1: the 49 symbols of the program and 1814 cycles. -/
theorem test_pxUniform_P1 : answers (exec (.pxUniform 0x12 0x34 0x56) lineOn) (fun t =>
    decide (t.sym = symbols ([0, 0, 1, 1, 0, 1, 0, 0, 0, 0, 0, 1, 0, 0, 1, 0, 0, 1, 0, 1, 0, 1, 1, 0] ++
      [0, 0, 1, 1, 0, 1, 0, 0, 0, 0, 0, 1, 0, 0, 1, 0, 0, 1, 0, 1, 0, 1, 1, 0] ++ [2])) &&
    decide (wireCycles t.wire = 1814)) = true := by decide

/-- T4: from reset the frame is refused. -/
theorem test_pxUniform_reset : refuses (exec (.pxUniform 1 2 3) State.reset) .outputNotEnabled = true := by decide

set_option maxRecDepth 4000 in
/-- T3: `PX_ARRAY [1, 2], [3, 4], [5, 6]` with K = 2. -/
theorem test_pxArray_T3 : answers (exec (.pxArray 1 2 3) withArrays) (fun t => decide (t.sym = symbols (
    [0, 0, 0, 0, 0, 0, 1, 1, 0, 0, 0, 0, 0, 0, 0, 1, 0, 0, 0, 0, 0, 1, 0, 1] ++
    [0, 0, 0, 0, 0, 1, 0, 0, 0, 0, 0, 0, 0, 0, 1, 0, 0, 0, 0, 0, 0, 1, 1, 0] ++ [2]))) = true := by decide

/-- T3: `PX_ARRAY [1], [3, 4], [5, 6]` is refused. -/
theorem test_pxArray_short : refuses (exec (.pxArray 9 2 3) withArrays) .shortArray = true := by decide

/-- T6: the first four segments of `SendByte(0xA5)` at 16 MHz. -/
theorem test_sendByte_T6 : (sendByte 0xA5 inFrame).wire.take 4 = [⟨true, 14⟩, ⟨false, 9⟩, ⟨true, 6⟩, ⟨false, 14⟩] := by
  decide

/-- Q9. -/
theorem test_encBegin : answers (exec .encBegin { State.reset with counter := 12, pcpend := true })
    (fun t => decide (t = { State.reset with
      counter := 12
      pcpend := true
      pue := ⟨true, true, true⟩
      pcie := true })) = true := by decide

/-- Q5: `counter = -7` gives -1; T4: `IE` ends at 1. -/
theorem test_encGet : answers (exec .encGet { State.reset with counter := -7, ie := false })
    (fun t => decide (t.ret = .detents (-1)) && t.ie) = true := by decide

/-- Q6, `ENC_SET 100, 20000, 30000, false`. -/
theorem test_encSet_clamps : answers (exec (.encSet 100 20000 30000 false) State.reset) (fun t =>
    decide (t.counter = 32764 ∧ t.counterMinLimit = 32764 ∧ t.counterMaxLimit = 32764 ∧ t.ret = .status true)) = true := by
  decide

/-- S2, `ENC_SET 5, 10, 1, false`. -/
theorem test_encSet_fails : answers (exec (.encSet 5 10 1 false) { State.reset with counter := 12 }) (fun t =>
    decide (t = { State.reset with counter := 12, ret := .status false })) = true := by decide

/-- B3. -/
theorem test_btnGet : answers (exec .btnGet { State.reset with btnState := .longClick }) (fun t =>
    decide (t.ret = .click .longClick ∧ t.btnState = .none)) = true := by decide

/-- Q1, row `xx11`, `a = 1`, `b = 0`: `hist` 1101, counter 1. -/
theorem test_encIsrQ : answers (exec (.encIsrQ true false) (turning 0 false 0b0111)) (fun t =>
    decide (t.hist = 0b1101 ∧ t.counter = 1)) = true := by decide

/-- Q2: 40 with wrap goes to -40, -40 without wrap stays. -/
theorem test_encIsrQ_limits :
    answers (exec (.encIsrQ false true) (turning 40 true 0)) (fun t => decide (t.counter = -40)) = true ∧
    answers (exec (.encIsrQ true false) (turning (-40) false 0)) (fun t => decide (t.counter = -40)) = true := by decide

/-- B2, rows 2 and 7. -/
theorem test_encIsrB :
    answers (exec (.encIsrB false 100) (pressed true 0 .none)) (fun t =>
      decide (t.prevBtn = false ∧ t.pressStart = 100 ∧ t.btnState = .none)) = true ∧
    answers (exec (.encIsrB true 400) (pressed false 100 .longClick)) (fun t =>
      decide (t.prevBtn = true ∧ t.pressStart = 100 ∧ t.btnState = .shortClick)) = true := by decide

/-- B1: `t0 = 0xFFFFFFF0`, `t1 = 0x40`, held 80; B4: `SHORT_T = 1000`, `LONG_T = 50`, held 51 gives nothing. -/
theorem test_encIsrB_held :
    answers (exec (.encIsrB true 0x40) (pressed false 0xFFFFFFF0 .none)) (fun t => decide (t.btnState = .shortClick)) = true ∧
    classify { ill with shortT := 1000, longT := 50 } 51 .none = .none ∧
    classify { ill with shortT := 1000, longT := 50 } 1001 .none = .longClick := by decide

/-- Q1: an entry of each kind. -/
theorem test_lut_rows :
    answers (exec .lut1 (turning 0 false 1)) (fun t => decide (t.counter = -1)) = true ∧
    answers (exec .lut6 (turning 0 false 6)) (fun t => decide (t.counter = 0)) = true ∧
    answers (exec .lut13 (turning 0 false 13)) (fun t => decide (t.counter = 1)) = true := by decide

/-- R73, T5: a 1 bit is 14 cycles high and 9 low, a 0 bit 6 and 14, the latch 800 low. -/
theorem test_wire_rows :
    answers (exec .bit1 inFrame) (fun t => decide (t.wire = [⟨true, 14⟩, ⟨false, 9⟩] ∧ t.sym = [.bit1])) = true ∧
    answers (exec .bit0 inFrame) (fun t => decide (t.wire = [⟨true, 6⟩, ⟨false, 14⟩] ∧ t.sym = [.bit0])) = true ∧
    answers (exec .latch inFrame) (fun t => decide (t.wire = [⟨false, 800⟩] ∧ t.tx = .idle)) = true := by decide

/-- I7: the wrong context, and an unassigned code. -/
theorem test_refusals :
    refuses (exec .encGet (turning 0 false 0)) .wrongContext = true ∧
    refuses (exec (.encIsrQ false true) (turned 0 false 0)) .wrongContext = true ∧
    refuses (exec .unassigned3 State.reset) (.unassignedOperation 3) = true := by decide

/-! ### Steps of the environment and the handler -/

/-- I1 and I2. -/
theorem test_pin :
    answers (step { turned 0 false 0 with script := [.pin .b true] }) (fun t => t.pcpend) = true ∧
    answers (step { turned 0 false 0 with script := [.pin .a false] }) (fun t => !t.pcpend) = true ∧
    answers (step { State.reset with script := [.pin .a true] }) (fun t => !t.pcpend) = true := by decide

/-- I1: one run. -/
theorem test_irq : answers (step { pending with script := [.irq] }) (fun t =>
    decide (t.hist = 0b0010 ∧ t.counter = 1 ∧ t.pcpend = false ∧ t.context = .foreground)) = true := by decide

/-- I5: with `IE = 0` the run is not legal. -/
theorem test_irq_masked : refuses (step { pending with script := [.irq], ie := false }) .handlerNotEnabled = true := by
  decide

/-- P5 step 6. -/
theorem test_callerWrite : answers (step { State.reset with script := [.callerWrite 1 [2, 0x80]] }) (fun t =>
    decide (memRead t.arrays 1 1 = some 0x80 ∧ memRead t.arrays 1 2 = none)) = true := by decide

/-- The word 4 placed at reset runs `ENC_BEGIN`. -/
theorem test_withFetchWord : answers (step (State.reset.withFetchWord 8 4)) (fun t => t.pcie) = true := by decide

/-! ### Witnesses: the hypotheses of each statement can be met -/

theorem witness_ResetMeetsTheInvariant : ill.Wf := by decide

theorem inv_turned (n : Int) (lo : -40 ≤ n) (hi : n ≤ 40) (w : Bool) (h : BitVec 4) : (turned n w h).Inv :=
  ⟨show ill.Wf by decide, lo, hi, show ill.intMin ≤ -40 by decide, show 40 ≤ ill.intMax by decide,
    show 0 < 2 ^ 32 by decide, show 0 < 2 ^ 32 by decide, rfl, rfl, rfl, rfl, rfl, Memory.wf_nil⟩

theorem witness_DecodeOfEncode : 1 ≤ ill.w ∧ (Instr.encSet (-32768) 32767 0 true).wellFormed ill = true ∧
    (Instr.encIsrB true 4294967295).wellFormed ill = true ∧ (Instr.pxArray 65535 0 1).wellFormed ill = true := by decide

theorem witness_EncodeOfDecode : 1 ≤ ill.w ∧ decode ill .operation [false, true, false, true, true] = .ok (.encGet, [true]) :=
  ⟨by decide, rfl⟩

theorem witness_StepRuns_next : ({ State.reset with script := [.issue [false, true, false, false]] } : State).script =
      .issue [false, true, false, false] :: [] ∧
    decode State.reset.cfg .operation [false, true, false, false] = .ok (.encBegin, []) := ⟨rfl, rfl⟩

theorem witness_StepRuns_fault : ({ State.reset with script := [.issue []] } : State).script = .issue [] :: [] ∧
    decode State.reset.cfg .operation [] = .error .truncated := ⟨rfl, rfl⟩

theorem witness_FetchWord : ∃ tail, decode State.reset.cfg .operation (tableBits State.reset.cfg 8 8) =
    .ok (.encIsrQ false false, tail) := ⟨_, rfl⟩

theorem witness_Unscheduled : pending.script = [] ∧ pending.context = .foreground ∧ pending.handlerEnabled = true ∧
    State.reset.script = [] ∧ State.reset.context = .foreground ∧ State.reset.handlerEnabled = false := by decide

theorem witness_StepKeeps : (turned 40 true 0).Inv ∧ step (turned 40 true 0) = .next (turned 40 true 0) :=
  ⟨inv_turned 40 (by decide) (by decide) true 0, rfl⟩

theorem witness_WrongContext : Instr.isOperation (.encSet 0 0 1 true) = true ∧
    (∀ a b, Instr.encSet 0 0 1 true ≠ .encIsrQ a b) ∧ (∀ lvl t, Instr.encSet 0 0 1 true ≠ .encIsrB lvl t) ∧
    (turning 0 false 0).context = .interrupt ∧ State.reset.context = .foreground := by
  refine ⟨rfl, fun _ _ => ?_, fun _ _ => ?_, rfl, rfl⟩ <;> simp

theorem witness_TransmitNeeds : Instr.isTransmit (.pxUniform 1 2 3) = true ∧ State.reset.context = .foreground ∧
    State.reset.doutOe = false ∧ ({ lineOn with cfg := badTiming } : State).doutOe = true ∧
    ({ lineOn with cfg := badTiming } : State).context = .foreground ∧
    ¬ ({ lineOn with cfg := badTiming } : State).cfg.TimingOk := by decide

theorem witness_contexts : State.reset.context = .foreground ∧ (turning 0 false 0).context = .interrupt := ⟨rfl, rfl⟩

theorem witness_BeginIsIdempotent : ∃ t u, exec .pxBegin State.reset = .next t ∧ exec .encBegin State.reset = .next u :=
  ⟨_, _, rfl, rfl⟩

theorem witness_PxUniform : lineOn.context = .foreground ∧ lineOn.doutOe = true ∧ lineOn.cfg.TimingOk := by decide

theorem witness_PxArray : withArrays.context = .foreground ∧ withArrays.doutOe = true ∧ withArrays.cfg.TimingOk ∧
    withArrays.cfg.k = (withArrays.arrays.array 1).length ∧ withArrays.cfg.k = (withArrays.arrays.array 2).length ∧
    withArrays.cfg.k = (withArrays.arrays.array 3).length ∧
    (withArrays.arrays.array 9).length + 1 = withArrays.cfg.k := by decide

/-- With arrays of exactly K bytes. -/
theorem witness_InterruptsStaySuspended : withArrays.context = .foreground ∧ withArrays.doutOe = true ∧
    withArrays.cfg.TimingOk ∧ withArrays.cfg.k = (withArrays.arrays.array 1).length ∧
    withArrays.cfg.k = (withArrays.arrays.array 2).length ∧ withArrays.cfg.k = (withArrays.arrays.array 3).length := by decide

theorem witness_ConstantArrays : ∀ i < withArrays.cfg.k, memRead withArrays.arrays 4 i = some 7 := by decide

theorem witness_transmit : Instr.isTransmit (.pxUniform 1 2 3) = true ∧ ∃ t, exec (.pxUniform 1 2 3) lineOn = .next t :=
  ⟨rfl, _, rfl⟩

theorem witness_FramesAreIndependent : lineOn.cfg.k = ({ lineOn with counter := 7, ie := false } : State).cfg.k ∧
    (∀ r, lineOn.arrays.array r = ({ lineOn with counter := 7, ie := false } : State).arrays.array r) ∧
    (∃ t, exec (.pxUniform 1 2 3) lineOn = .next t) ∧
    ∃ t, exec (.pxUniform 1 2 3) { lineOn with counter := 7, ie := false } = .next t :=
  ⟨rfl, fun _ => rfl, ⟨_, rfl⟩, ⟨_, rfl⟩⟩

theorem witness_EnvironmentCommutes : (∃ t, exec (.pxUniform 1 2 3) lineOn = .next t) ∧
    (∃ u, runEvent (.pin .a true) lineOn = .next u) ∧ (∃ u, runEvent (.release .b) lineOn = .next u) ∧
    ∃ u, runEvent (.time 4294967295) lineOn = .next u := ⟨⟨_, rfl⟩, ⟨_, rfl⟩, ⟨_, rfl⟩, ⟨_, rfl⟩⟩

theorem witness_WireSymbols : inFrame.context = .foreground ∧ inFrame.doutOe = true ∧ inFrame.ie = false ∧
    inFrame.tx = .sending 0 .green 7 .high := by decide

theorem witness_EncIsrQ : (turning 40 true 0).context = .interrupt ∧
    (turning 40 true 0).counterMinLimit ≤ (turning 40 true 0).counter ∧
    (turning 40 true 0).counter = (turning 40 true 0).counterMaxLimit ∧
    (turning (-40) true 0).counter = (turning (-40) true 0).counterMinLimit := by decide

theorem witness_CounterStaysWithinLimits : 1 ≤ (turning 40 true 0).cfg.s ∧
    ∃ t, exec (.encIsrQ false true) (turning 40 true 0) = .next t := ⟨by decide, _, rfl⟩

/-- Two forward steps from the limits' inside: the sequence just fits. -/
theorem witness_CountingLaw : (turned 38 false 0).Inv ∧ (turned 38 false 0).pcie = true ∧ (turned 38 false 0).inSync ∧
    turnEvents false false [.b, .a] = [.pin .b true, .irq, .pin .a true, .irq] ∧
    (turned 38 false 0).counterMinLimit + 2 ≤ (turned 38 false 0).counter ∧
    (turned 38 false 0).counter + 2 = (turned 38 false 0).counterMaxLimit :=
  ⟨inv_turned 38 (by decide) (by decide) false 0, rfl, rfl, rfl, by decide, by decide⟩

/-- The script of a state does not bear on the invariant. -/
theorem inv_script {s : State} (h : s.Inv) (script : List Event) : ({ s with script := script } : State).Inv :=
  ⟨h.config, h.lower, h.upper, h.minRange, h.maxRange, h.pressRange, h.nowRange, h.foreground, h.enabled, h.idle, h.low,
    h.trace, h.memory⟩

/-- One step below the upper limit, four forward steps: the sequence of I3 (d). -/
theorem witness_Coalesced_forward :
    let s : State := { turned 39 false 0 with
      script := [.pin .b true, .pin .a true, .pin .b false, .pin .a false, .irq] }
    s.Inv ∧ s.pcie = true ∧ s.inSync ∧ s.counterMinLimit < s.counter ∧ s.counter + 1 = s.counterMaxLimit ∧
    s.script = sameWayMoves true 4 s.pinA s.pinB ++ .irq :: [] :=
  ⟨inv_script (inv_turned 39 (by decide) (by decide) false 0) _, rfl, rfl, by decide, by decide, rfl⟩

/-- One step above the lower limit, one backward step (R94: from 00, `PIN A=1`). -/
theorem witness_Coalesced_backward :
    let s : State := { turned (-39) false 0 with script := [.pin .a true, .irq] }
    s.Inv ∧ s.pcie = true ∧ s.inSync ∧ s.counterMinLimit + 1 = s.counter ∧ s.counter < s.counterMaxLimit ∧
    s.script = sameWayMoves false 1 s.pinA s.pinB ++ .irq :: [] :=
  ⟨inv_script (inv_turned (-39) (by decide) (by decide) false 0) _, rfl, rfl, by decide, by decide, rfl⟩

/-- I3 (a) on line A. -/
theorem witness_Coalesced_back :
    let s : State := { turned 39 false 0 with script := [.pin .a true, .pin .a false, .irq] }
    s.Inv ∧ s.pcie = true ∧ s.inSync ∧ s.counterMinLimit < s.counter ∧ s.counter + 1 = s.counterMaxLimit ∧
    s.script = [.pin .a (!s.level .a), .pin .a (s.level .a), .irq] ++ [] ∧ s.prevBtn = s.pinBtn :=
  ⟨inv_script (inv_turned 39 (by decide) (by decide) false 0) _, rfl, rfl, by decide, by decide, rfl, rfl⟩

/-- I3 (e) without its times: the button changes and changes back. -/
theorem witness_Coalesced_button :
    let s : State := { turned (-39) false 0 with script := [.pin .btn false, .pin .btn true, .irq] }
    s.Inv ∧ s.pcie = true ∧ s.inSync ∧ s.counterMinLimit + 1 = s.counter ∧ s.counter < s.counterMaxLimit ∧
    s.script = [.pin .btn (!s.level .btn), .pin .btn (s.level .btn), .irq] ++ [] ∧ s.prevBtn = s.pinBtn :=
  ⟨inv_script (inv_turned (-39) (by decide) (by decide) false 0) _, rfl, rfl, by decide, by decide, rfl, rfl⟩

theorem witness_EncGetStaysInRange : (turned (-40) false 0).Inv ∧ ∃ t, exec .encGet (turned (-40) false 0) = .next t :=
  ⟨inv_turned (-40) (by decide) (by decide) false 0, _, rfl⟩

theorem witness_EncSet_fails : State.reset.context = .foreground ∧ (7 : Int) ≤ 7 := by decide

theorem witness_EncSet_succeeds : State.reset.context = .foreground ∧ (6 : Int) < 7 ∧ 1 ≤ State.reset.cfg.s ∧
    State.reset.cfg.limLo ≤ -8192 ∧ 8191 ≤ State.reset.cfg.limHi := by decide

theorem witness_LimitsEqual : 1 ≤ State.reset.cfg.s ∧ State.reset.cfg.limHi ≤ 8191 ∧ -8192 ≤ State.reset.cfg.limLo ∧
    (∃ t, exec (.encSet 100 8191 30000 false) State.reset = .next t) ∧
    (∃ t, exec (.encSet 100 (-30000) (-8192) false) State.reset = .next t) ∧
    ({ turning 5 true 0 with counterMinLimit := 5, counterMaxLimit := 5 } : State).counterMinLimit = 5 ∧
    ∃ t, exec (.encIsrQ false true) { turning 5 true 0 with counterMinLimit := 5, counterMaxLimit := 5 } = .next t :=
  ⟨by decide, by decide, by decide, ⟨_, rfl⟩, ⟨_, rfl⟩, rfl, _, rfl⟩

/-- The largest time and the largest start time; both values of `prevBtn`; both contexts. -/
theorem witness_EncIsrB : 4294967295 < 2 ^ State.reset.cfg.tw ∧ (pressed false 4294967295 .none).pressStart < 2 ^ ill.tw ∧
    (pressed false 4294967295 .none).context = .interrupt ∧ (pressed false 4294967295 .none).prevBtn = false ∧
    (pressed true 0 .none).prevBtn = true ∧ (pressed true 0 .none).context = .interrupt ∧
    State.reset.context = .foreground := by decide

theorem witness_BtnGet : State.reset.context = .foreground ∧ (∃ t, exec .btnGet State.reset = .next t) ∧
    (pressed true 0 .none).context = .interrupt := ⟨rfl, ⟨_, rfl⟩, rfl⟩

/-- Thresholds at their boundary: held 50 and held 51 (B1). -/
theorem witness_Press : (turned 0 false 0).Inv ∧ (turned 0 false 0).inSync ∧ (turned 0 false 0).pcie = true ∧ (turned 0 false 0).prevBtn = true ∧
    (turned 0 false 0).pinBtn = true ∧ 100 ≤ 100 + (turned 0 false 0).cfg.shortT ∧
    100 + (turned 0 false 0).cfg.longT + 1 < 2 ^ (turned 0 false 0).cfg.tw :=
  ⟨inv_turned 0 (by decide) (by decide) false 0, rfl, rfl, rfl, rfl, by decide, by decide⟩

theorem witness_CodeRows : inFrame.context = .foreground ∧ inFrame.ie = false ∧
    (pressed false 100 .none).context = .interrupt := by decide

/-- A transition, a level that stays, and `PCIE = 0`. -/
theorem witness_Pin : (turned 0 false 0).level .b ≠ true ∧ (turned 0 false 0).pcie = true ∧
    (turned 0 false 0).level .a = false ∧ State.reset.pcie = false := by decide

theorem witness_PullUp : (turned 0 false 0).pullUp .btn = true := rfl

theorem witness_Handler : ({ pending with script := [.irq] } : State).script = .irq :: [] ∧ pending.pcpend = true ∧
    pending.ie = true ∧ pending.context = .foreground ∧ State.reset.pcpend = false ∧ inFrame.ie = false ∧
    (turning 0 false 0).context = .interrupt := by decide

theorem witness_HandlerWrites : ∃ t, step { pending with script := [.irq] } = .next t := ⟨_, rfl⟩

theorem witness_PendingCleared : ∃ t, step { pending with script := [.irq] } = .next t ∧ pending.pcpend = true ∧
    t.pcpend = false := ⟨_, rfl, rfl, rfl⟩

theorem witness_CallerWrite : Memory.wf withArrays.arrays ∧
    ({ withArrays with script := [.callerWrite 9 []] } : State).script = .callerWrite 9 [] :: [] := by decide

/-- One instruction of each kind that the whole-machine rules speak of answers next. -/
theorem witness_exec_next : (∃ t, exec .encGet State.reset = .next t) ∧ (∃ t, exec (.encSet 1 0 3 true) State.reset = .next t) ∧
    (∃ t, exec (.encSet 1 3 3 true) State.reset = .next t) ∧ (∃ t, exec .pxBegin State.reset = .next t) ∧
    (∃ t, exec (.encIsrB false 5) (pressed true 0 .none) = .next t) ∧ ∃ t, step State.reset = .next t :=
  ⟨⟨_, rfl⟩, ⟨_, rfl⟩, ⟨_, rfl⟩, ⟨_, rfl⟩, ⟨_, rfl⟩, ⟨_, rfl⟩⟩

end Sys2Proof.Tests
end

section
/-! Proofs of the statements on encodings (30_encoding.md): the unassigned codes (R89) and the context an operation is
issued from (R71). -/

namespace Sys2Proof.EncodingProofs

open Sys2Proof Sys2Proof.Machine

/-! ### Selecting an operation -/

/-- `OP` alone selects the operation; what follows it is left for the operands (R70, R87). -/
theorem decode_operation_opcode (c : Config) (op : Nat) (hop : op < 2 ^ 4) (rest : Bits) :
    decode c .operation (bitsOfNat 4 op ++ rest) = decodeOperands c op rest := by
  rw [decode, readField_bitsOfNat, Nat.mod_eq_of_lt hop]

/-! ### The context check -/

theorem inContext_of_ne {c : Context} {s : State} (h : s.context ≠ c) (o : Out) :
    inContext c s o = .refused .wrongContext := if_neg h

/-- The meaning of each operation stands behind the check for the context that R87 names as its issuer. -/
theorem exec_eq_inContext_issuer {i : Instr} (hi : i.isOperation = true) (s : State) :
    ∃ o, exec i s = inContext i.issuer s o := by
  cases i
  case pxBegin | pxUniform | pxArray | encBegin | encGet | encSet | btnGet | encIsrQ | encIsrB => exact ⟨_, rfl⟩
  all_goals cases hi

theorem exec_wrongContext {i : Instr} {s : State} (hi : i.isOperation = true) (hs : s.context ≠ i.issuer) :
    exec i s = .refused .wrongContext := by
  obtain ⟨o, ho⟩ := exec_eq_inContext_issuer hi s
  rw [ho, inContext_of_ne hs]

/-- The two callbacks are the only operations that the foreground does not issue. -/
theorem issuer_eq_foreground {i : Instr} (hi : i.isOperation = true) (hq : ∀ a b, i ≠ .encIsrQ a b)
    (hb : ∀ lvl t, i ≠ .encIsrB lvl t) : i.issuer = .foreground := by
  cases i
  case pxBegin | pxUniform | pxArray | encBegin | encGet | encSet | btnGet => rfl
  case encIsrQ a b => exact absurd rfl (hq a b)
  case encIsrB lvl t => exact absurd rfl (hb lvl t)
  all_goals cases hi

/-! ### The statements -/

/-- Settles O10: each unassigned row refuses by its code, and its code selects it whatever bits follow. -/
theorem unassignedCodesAreRefused : Obligations.UnassignedCodesAreRefused := by
  unfold Obligations.UnassignedCodesAreRefused
  constructor
  · intro s
    exact ⟨rfl, rfl, rfl, rfl, rfl, rfl, rfl⟩
  · intro c rest
    have select := fun op hop => decode_operation_opcode c op hop rest
    exact ⟨select 0x3 (by decide), select 0xA (by decide), select 0xB (by decide), select 0xC (by decide),
      select 0xD (by decide), select 0xE (by decide), select 0xF (by decide)⟩

/-- Settles O12: a context other than the issuer of the operation is refused, and the two callbacks alone have the
interrupt context as their issuer. -/
theorem wrongContextIsRefused : Obligations.WrongContextIsRefused := by
  unfold Obligations.WrongContextIsRefused
  refine ⟨fun i s hi hq hb hs => ?_, fun a b s hs => ?_, fun lvl t s hs => ?_⟩
  · have hf : i.issuer = .foreground := issuer_eq_foreground hi hq hb
    exact exec_wrongContext hi (by simp [hs, hf])
  · exact exec_wrongContext rfl (by simp [hs, Instr.issuer])
  · exact exec_wrongContext rfl (by simp [hs, Instr.issuer])

end Sys2Proof.EncodingProofs
end

section
/-! The Pixel Transmitter (40_pixel_transmitter.md): what `PX_BEGIN` and `PX_UNIFORM` do where their preconditions hold,
and the symbols of a frame whose pixels all have one colour. -/

namespace Sys2Proof.PixelProofs

open Sys2Proof Sys2Proof.Machine

/-! ### What the operations do -/

theorem exec_pxBegin {s : State} (hs : s.context = .foreground) :
    exec .pxBegin s = .next { s with doutOe := true } := inContext_of hs _

/-- R101 where R109 holds: the K triplets of the loop are a frame, because K is at least 1 (R5). -/
theorem exec_pxUniform {s : State} (hs : s.context = .foreground) (hd : s.doutOe = true) (ht : s.cfg.TimingOk)
    (r g b : Byte) : exec (.pxUniform r g b) s = .next (frameState s (List.replicate s.cfg.k ⟨r, g, b⟩)) := by
  have hk : 1 ≤ s.cfg.k := ht.1
  calc exec (.pxUniform r g b) s
      = .next (sendFrame (List.replicate s.cfg.k ⟨r, g, b⟩) s) :=
        (inContext_of hs _).trans (canTransmit_of hd ht _)
    _ = .next (frameState s (List.replicate s.cfg.k ⟨r, g, b⟩)) := by
        rw [sendFrame_frameState s _ List.length_replicate hk]

/-! ### Frames of one colour -/

theorem frameSymbols_replicate (k : Nat) (t : Triplet) :
    frameSymbols (List.replicate k t) = (List.replicate k (pixelSymbols t)).flatten ++ [.latch] := by
  rw [frameSymbols, List.flatMap_def, List.map_replicate]

/-! ### The statements -/

/-- Settles O15: the context check is all that stands before the write of `DOUT_OE`. -/
theorem pxBeginDrivesTheLine : Obligations.PxBeginDrivesTheLine := by
  unfold Obligations.PxBeginDrivesTheLine
  refine ⟨fun c => rfl, fun s => ⟨exec_pxBegin, fun hs => ?_⟩⟩
  exact EncodingProofs.exec_wrongContext rfl (by simp [hs, Instr.issuer])

/-- Settles O17: the frame of K equal triplets has the symbols of one triplet K times over, and the encoding is the
select field before the three bytes. -/
theorem pxUniformSendsTheFrame : Obligations.PxUniformSendsTheFrame := by
  unfold Obligations.PxUniformSendsTheFrame
  constructor
  · intro c r g b
    have hop : bitsOfNat 4 0x1 = [false, false, false, true] := by decide
    simp only [encode, hop, List.append_assoc]
  · intro r g b s hs hd ht
    rw [exec_pxUniform hs hd ht, frameState, frameSymbols_replicate, pixelSymbols, List.append_assoc s.sym]

end Sys2Proof.PixelProofs
end

section
/-! The Quadrature Decoder (41_quadrature_decoder.md): what `ENC_BEGIN`, `ENC_ISR_Q` and a successful `ENC_SET` do in the
context that issues them, and the safe sub-range of the scaling (R150). -/

namespace Sys2Proof.DecoderProofs

open Sys2Proof Sys2Proof.Machine

/-! ### What the operations do -/

theorem exec_encBegin {s : State} (hs : s.context = .foreground) :
    exec .encBegin s = .next { s with pue := ⟨true, true, true⟩, pcie := true } := inContext_of hs _

/-- R131 by the table of R134: the sample goes into the history first, and the entry is looked up at the new history. -/
theorem exec_encIsrQ {s : State} (a b : Bool) (hs : s.context = .interrupt) (lo : s.counterMinLimit ≤ s.counter)
    (hi : s.counter ≤ s.counterMaxLimit) :
    exec (.encIsrQ a b) s = .next { s with
      hist := pushSample s.hist a b
      counter := counterAfter s (s.cfg.lut (pushSample s.hist a b)) } :=
  calc exec (.encIsrQ a b) s
      = .next (applyIncrement (s.cfg.lut (pushSample s.hist a b)) (takeSample a b s)) := inContext_of hs _
    _ = _ := by rw [applyIncrement_counterAfter (takeSample a b s) _ (lut_range _ _) lo hi]; rfl

/-- R140 where the limits as given are in order. -/
theorem exec_encSet_of_lt {s : State} (value : Int) {lo hi : Int} (w : Bool) (hs : s.context = .foreground)
    (h : lo < hi) :
    exec (.encSet value lo hi w) s =
      .next (deliver (.status true) (atomic (replaceCounter value lo hi w) s)) :=
  calc exec (.encSet value lo hi w) s
      = .next (if lo ≥ hi then deliver (.status false) s
          else deliver (.status true) (atomic (replaceCounter value lo hi w) s)) := inContext_of hs _
    _ = _ := by rw [if_neg (not_le.mpr h)]

/-! ### Scaling (R150) -/

theorem scale_mem_range {c : Config} (hs : 1 ≤ c.s) {x : Int} (lo : c.limLo ≤ x) (hi : x ≤ c.limHi) :
    c.intMin ≤ x * c.s ∧ x * c.s ≤ c.intMax := by
  obtain ⟨low, high, -, -⟩ := scale_limits c hs
  have hp : (0 : Int) ≤ c.s := by omega
  exact ⟨low.trans (Int.mul_le_mul_of_nonneg_right lo hp), (Int.mul_le_mul_of_nonneg_right hi hp).trans high⟩

theorem dvd_scale (c : Config) (v : Int) : (c.s : Int) ∣ scale c v := Int.dvd_mul_left _ _

/-! ### The statements -/

/-- Settles O26: the context check is all that stands before the writes of `PUE` and `PCIE`. -/
theorem encBeginConfiguresThePins : Obligations.EncBeginConfiguresThePins := by
  unfold Obligations.EncBeginConfiguresThePins
  refine ⟨fun c => rfl, fun s => ⟨exec_encBegin, fun hs => ?_⟩⟩
  exact EncodingProofs.exec_wrongContext rfl (by simp [hs, Instr.issuer])

/-- Settles O28: the shifted history is the last sample before the new one, and the update by a table entry is that of
R134. -/
theorem encIsrQUpdatesByTheTable : Obligations.EncIsrQUpdatesByTheTable := by
  unfold Obligations.EncIsrQUpdatesByTheTable
  refine ⟨fun c a b => rfl, fun a b s => ⟨fun hs lo hi => ?_, fun hs => ?_⟩⟩
  · rw [exec_encIsrQ a b hs lo hi, pushSample_eq]
  · exact EncodingProofs.exec_wrongContext rfl (by simp [hs, Instr.issuer])

/-- Settles O37: the ends of the safe sub-range scale into the integer range, and a success stores only scaled values
between them. -/
theorem encSetCannotOverflow : Obligations.EncSetCannotOverflow := by
  unfold Obligations.EncSetCannotOverflow
  refine ⟨fun c hs x => scale_mem_range hs, fun value lo hi w s hc hs h => ?_⟩
  obtain ⟨low, high, minRange, maxRange⟩ := replaceCounter_bounds value lo hi w (suspend s) hs h
  exact ⟨_, exec_encSet_of_lt value w hc h, minRange, low, high, maxRange,
    dvd_scale _ _, dvd_scale _ _, dvd_scale _ _⟩

end Sys2Proof.DecoderProofs
end

section
/-! The Button Click Classifier (42_button_classifier.md): what `ENC_ISR_B` does on each edge of the button line. -/

namespace Sys2Proof.ButtonProofs

open Sys2Proof Sys2Proof.Machine

/-! ### The edges of the button line (R160) -/

theorem buttonEdge_falling {s : State} (h : s.prevBtn = true) (t : Nat) :
    buttonEdge false t s = { s with pressStart := t } := if_pos ⟨h, rfl⟩

theorem buttonEdge_rising {s : State} (h : s.prevBtn = false) (t : Nat) :
    buttonEdge true t s = setBtnState (classify s.cfg (heldTime s.cfg t s.pressStart) s.btnState) s := by
  simp [buttonEdge, h]

theorem buttonEdge_prevBtn (s : State) (t : Nat) : buttonEdge s.prevBtn t s = s := by
  cases h : s.prevBtn <;> simp [buttonEdge, h]

/-- R163 by the intervals of the hold, shortest first; the thresholds need not be in order (R169). -/
theorem classify_eq (c : Config) (held : Nat) (old : BtnState) :
    classify c held old =
      if held ≤ c.shortT then old else if held ≤ c.longT then .shortClick else .longClick := by
  simp only [classify, gt_iff_lt, ← not_le, ite_not]

/-! ### What the operation does -/

/-- R160 for an operand that is a `uTW` value. -/
theorem exec_encIsrB {s : State} (hs : s.context = .interrupt) (lvl : Bool) {t : Nat} (ht : t < 2 ^ s.cfg.tw) :
    exec (.encIsrB lvl t) s = .next (storeLevel lvl (buttonEdge lvl t s)) :=
  calc exec (.encIsrB lvl t) s
      = .next (storeLevel lvl (buttonEdge lvl (timeOperand s.cfg t) s)) := inContext_of hs _
    _ = .next (storeLevel lvl (buttonEdge lvl t s)) := by rw [timeOperand_of_lt s.cfg t ht]

/-! ### The statement -/

/-- Settles O39: each edge has its one write before the level is stored, and the hold is the modular difference. -/
theorem encIsrBClassifiesTheHold : Obligations.EncIsrBClassifiesTheHold := by
  unfold Obligations.EncIsrBClassifiesTheHold
  refine ⟨fun c lvl t => rfl, fun t s ht hp => ⟨fun hs hb => ?_, fun hs hb => ?_, fun hs => ?_, fun lvl hs => ?_⟩⟩
  · rw [exec_encIsrB hs false ht, buttonEdge_falling hb, storeLevel]
  · rw [exec_encIsrB hs true ht, buttonEdge_rising hb, classify_eq, heldTime_eq s.cfg t s.pressStart ht hp]
    rfl
  · rw [exec_encIsrB hs s.prevBtn ht, buttonEdge_prevBtn, storeLevel]
  · exact EncodingProofs.exec_wrongContext rfl (by simp [hs, Instr.issuer])

end Sys2Proof.ButtonProofs
end

section
/-! The interrupt and the environment (60_exceptions.md): what the step of a scheduled event is, which lines and flags a
pin change writes (R186), and when a scheduled handler run is taken (R187, R190). -/

namespace Sys2Proof.ExceptionProofs

open Sys2Proof Sys2Proof.Machine

/-- A scheduled event is taken off the script and performed (R62). -/
theorem step_of_script {s : State} {e : Event} {rest : List Event} (hs : s.script = e :: rest) :
    step s = runEvent e { s with script := rest } := by
  rw [step, hs]

/-! ### A pin change (R186) -/

/-- The script of a state does not bear on the lines. -/
theorem level_script (s : State) (script : List Event) (l : InLine) :
    State.level { s with script := script } l = s.level l := by
  cases l <;> rfl

@[simp] theorem setLevel_level_same (l : InLine) (v : Bool) (s : State) : (s.setLevel l v).level l = v := by
  cases l <;> rfl

theorem setLevel_level_other {l l' : InLine} (h : l' ≠ l) (v : Bool) (s : State) :
    (s.setLevel l v).level l' = s.level l' := by
  cases l <;> cases l'
  case a.a | b.b | btn.btn => exact absurd rfl h
  all_goals rfl

/-- The raising of the interrupt moves no line. -/
@[simp] theorem setPin_level (l l' : InLine) (v : Bool) (s : State) :
    (setPin l v s).level l' = (s.setLevel l v).level l' := by
  rw [setPin_eq]
  cases l' <;> rfl

theorem setPin_pcpend (l : InLine) (v : Bool) (s : State) :
    (setPin l v s).pcpend = (s.pcpend || ((s.level l != v) && s.pcie)) := by
  rw [setPin_eq]

theorem setPin_pcpend_of_change {l : InLine} {v : Bool} {s : State} (hl : s.level l ≠ v) (hp : s.pcie = true) :
    (setPin l v s).pcpend = true := by
  simp [setPin_pcpend, hl, hp]

theorem setPin_pcpend_of_no_change {l : InLine} {v : Bool} {s : State} (h : s.level l = v ∨ s.pcie = false) :
    (setPin l v s).pcpend = s.pcpend := by
  rcases h with hl | hp
  · simp [setPin_pcpend, hl]
  · simp [setPin_pcpend, hp]

/-- A pin change writes the lines and the pending flag, and nothing else. -/
theorem setPin_frame (l : InLine) (v : Bool) (s : State) : setPin l v s = { s with
    pinA := (setPin l v s).pinA
    pinB := (setPin l v s).pinB
    pinBtn := (setPin l v s).pinBtn
    pcpend := (setPin l v s).pcpend } := by
  rw [setPin_eq]

/-! ### Taking the interrupt (R187, R190) -/

theorem handlerEnabled_eq_true_iff (s : State) :
    s.handlerEnabled = true ↔ s.pcpend = true ∧ s.ie = true ∧ s.context = .foreground := by
  simp [State.handlerEnabled, and_assoc]

theorem handlerEnabled_eq_false {s : State} (h : s.pcpend = false ∨ s.ie = false ∨ s.context = .interrupt) :
    s.handlerEnabled = false := by
  rcases h with h | h | h <;> simp [State.handlerEnabled, h]

theorem irqStep_of_enabled {s : State} (h : s.handlerEnabled = true) : irqStep s = runHandler s := if_pos h

theorem irqStep_of_not_enabled {s : State} (h : s.handlerEnabled = false) :
    irqStep s = .refused .handlerNotEnabled := by
  simp [irqStep, h]

/-- A run always completes: neither callback is refused between entry and return (R190, R191). -/
theorem exists_runHandler_callbacks (s : State) :
    ∃ t u, exec (.encIsrQ s.pinA s.pinB) (enterHandler s) = .next t ∧ exec (.encIsrB s.pinBtn s.now) t = .next u ∧
      runHandler s = .next (leaveHandler u) := by
  have hrun := runHandler_eq s
  obtain ⟨t, u, hq, hb, hu⟩ := runHandler_next hrun
  exact ⟨t, u, hq, hb, hu ▸ hrun⟩

/-! ### The statements -/

/-- Settles O43: the step is the setting of the pin, which writes one line and raises the interrupt on a transition. -/
theorem pinTransitionRaisesTheInterrupt : Obligations.PinTransitionRaisesTheInterrupt := by
  unfold Obligations.PinTransitionRaisesTheInterrupt
  intro s l v rest hs
  refine ⟨setPin l v { s with script := rest }, step_of_script hs, ?_, fun l' hl' => ?_, fun hl hp => ?_,
    fun h => ?_, ?_⟩
  · rw [setPin_level, setLevel_level_same]
  · rw [setPin_level, setLevel_level_other hl', level_script]
  · exact setPin_pcpend_of_change (by rwa [level_script]) hp
  · exact setPin_pcpend_of_no_change (by rwa [level_script])
  · exact setPin_frame l v { s with script := rest }

/-- Settles O45: an enabled handler runs, and a run always completes; the rest of the script plays no part in whether it
is enabled. -/
theorem handlerRunsBothCallbacks : Obligations.HandlerRunsBothCallbacks := by
  unfold Obligations.HandlerRunsBothCallbacks
  intro s rest hs
  have hstep : step s = irqStep { s with script := rest } := step_of_script hs
  constructor
  · intro hp hi hc
    have enabled : State.handlerEnabled { s with script := rest } = true :=
      (handlerEnabled_eq_true_iff _).mpr ⟨hp, hi, hc⟩
    rw [hstep, irqStep_of_enabled enabled]
    exact exists_runHandler_callbacks { s with script := rest }
  · intro h
    exact hstep.trans (irqStep_of_not_enabled (handlerEnabled_eq_false h))

end Sys2Proof.ExceptionProofs
end

section
/-! The decoder and the encoder are inverse to each other (30_encoding.md R70, R72, R87): what the key of each format
selects, and for every row with operands the bits its decoder has read. -/

namespace Sys2Proof.RoundTripProofs

open Sys2Proof Sys2Proof.Machine

/-! ### From an instruction to its bits and back -/

/-- A field whose value fits is read back as it is. -/
theorem readField_bitsOfNat_of_lt {n v : Nat} (h : v < 2 ^ n) (rest : Bits) (k : Nat → Bits → Decoded) :
    readField n (bitsOfNat n v ++ rest) k = k v rest := by
  rw [readField_bitsOfNat, Nat.mod_eq_of_lt h]

/-- `OP` is read off, and the operands are left. -/
theorem decode_operation_operands (c : Config) {op : Nat} (hop : op < 2 ^ 4) (operands rest : Bits) :
    decode c .operation ((bitsOfNat 4 op ++ operands) ++ rest) = decodeOperands c op (operands ++ rest) := by
  rw [List.append_assoc, EncodingProofs.decode_operation_opcode c op hop]

/-- The operations, and the codes that select none: each operand is read off the front of its own field. -/
theorem decode_encode_operation {c : Config} {i : Instr} (rest : Bits) (hw : 1 ≤ c.w) (hf : i.format = .operation)
    (hi : i.wellFormed c = true) : decode c .operation (encode c i ++ rest) = .ok (i, rest) := by
  cases i
  case pxBegin | encBegin | encGet | btnGet | unassigned3 | unassignedA | unassignedB | unassignedC | unassignedD
      | unassignedE | unassignedF =>
    exact EncodingProofs.decode_operation_opcode c _ (by decide) rest
  case pxUniform r g b =>
    rw [encode, decode_operation_operands c (by decide)]
    simp [decodeOperands]
  case pxArray r g b =>
    simp only [Instr.wellFormed, Config.fitsRef, Bool.and_eq_true, decide_eq_true_eq] at hi
    obtain ⟨⟨hr, hg⟩, hb⟩ := hi
    rw [encode, decode_operation_operands c (by decide)]
    simp [decodeOperands, readField_bitsOfNat_of_lt hr, readField_bitsOfNat_of_lt hg, readField_bitsOfNat_of_lt hb]
  case encSet value minLimit maxLimit wrap =>
    simp only [Instr.wellFormed, Bool.and_eq_true] at hi
    obtain ⟨⟨hvalue, hmin⟩, hmax⟩ := hi
    rw [encode, decode_operation_operands c (by decide)]
    simp [decodeOperands, readSigned_signedField c _ _ _ hw, hvalue, hmin, hmax]
  case encIsrQ a b =>
    rw [encode, decode_operation_operands c (by decide)]
    simp [decodeOperands]
  case encIsrB lvl t =>
    simp only [Instr.wellFormed, Config.fitsTime, decide_eq_true_eq] at hi
    rw [encode, decode_operation_operands c (by decide)]
    simp [decodeOperands, readField_bitsOfNat_of_lt hi]
  all_goals cases hf

/-- Settles O3: an operation reads its operands back, and a row of another format is its key. -/
theorem decodeOfEncodeIsTheInstruction : Obligations.DecodeOfEncodeIsTheInstruction := by
  unfold Obligations.DecodeOfEncodeIsTheInstruction
  intro c i rest hw hi
  cases hf : i.format with
  | operation => exact decode_encode_operation rest hw hf hi
  | lutEntry | wireSymbol | btnCode | resultCode =>
    cases i <;> cases hf <;>
      · rw [decode, encode, readField_bitsOfNat]
        rfl

/-! ### From bits to an instruction and back -/

/-- What the decoder of a format is to answer for these bits: an instruction of that format whose operands fit, with its
encoding at their front. -/
def ReadsBits (c : Config) (f : Format) (bits : Bits) (i : Instr) (rest : Bits) : Prop :=
  i.format = f ∧ i.wellFormed c = true ∧ bits = encode c i ++ rest

theorem readsBits_pxUniform {c : Config} {bs rest : Bits} {i : Instr} (h : decodeOperands c 0x1 bs = .ok (i, rest)) :
    ReadsBits c .operation (bitsOfNat 4 0x1 ++ bs) i rest := by
  simp only [decodeOperands] at h
  obtain ⟨r, _, hr, h⟩ := readByte_ok h
  obtain ⟨g, _, hg, h⟩ := readByte_ok h
  obtain ⟨b, _, hb, h⟩ := readByte_ok h
  cases h
  exact ⟨rfl, rfl, by simp [encode, hr, hg, hb]⟩

theorem readsBits_pxArray {c : Config} {bs rest : Bits} {i : Instr} (h : decodeOperands c 0x2 bs = .ok (i, rest)) :
    ReadsBits c .operation (bitsOfNat 4 0x2 ++ bs) i rest := by
  simp only [decodeOperands] at h
  obtain ⟨r, _, fitsR, hr, h⟩ := readField_ok h
  obtain ⟨g, _, fitsG, hg, h⟩ := readField_ok h
  obtain ⟨b, _, fitsB, hb, h⟩ := readField_ok h
  cases h
  exact ⟨rfl, by simp [Instr.wellFormed, Config.fitsRef, fitsR, fitsG, fitsB], by simp [encode, hr, hg, hb]⟩

theorem readsBits_encSet {c : Config} {bs rest : Bits} {i : Instr} (hw : 1 ≤ c.w)
    (h : decodeOperands c 0x6 bs = .ok (i, rest)) : ReadsBits c .operation (bitsOfNat 4 0x6 ++ bs) i rest := by
  simp only [decodeOperands] at h
  obtain ⟨value, _, fitsValue, hvalue, h⟩ := readSigned_ok hw h
  obtain ⟨lo, _, fitsLo, hlo, h⟩ := readSigned_ok hw h
  obtain ⟨hi, _, fitsHi, hhi, h⟩ := readSigned_ok hw h
  obtain ⟨wrap, _, hwrap, h⟩ := readBit_ok h
  cases h
  exact ⟨rfl, by simp [Instr.wellFormed, fitsValue, fitsLo, fitsHi], by simp [encode, hvalue, hlo, hhi, hwrap]⟩

theorem readsBits_encIsrQ {c : Config} {bs rest : Bits} {i : Instr} (h : decodeOperands c 0x8 bs = .ok (i, rest)) :
    ReadsBits c .operation (bitsOfNat 4 0x8 ++ bs) i rest := by
  simp only [decodeOperands] at h
  obtain ⟨a, _, ha, h⟩ := readBit_ok h
  obtain ⟨b, _, hb, h⟩ := readBit_ok h
  cases h
  exact ⟨rfl, rfl, by simp [encode, ha, hb]⟩

theorem readsBits_encIsrB {c : Config} {bs rest : Bits} {i : Instr} (h : decodeOperands c 0x9 bs = .ok (i, rest)) :
    ReadsBits c .operation (bitsOfNat 4 0x9 ++ bs) i rest := by
  simp only [decodeOperands] at h
  obtain ⟨lvl, _, hlvl, h⟩ := readBit_ok h
  obtain ⟨t, _, fitsT, ht, h⟩ := readField_ok h
  cases h
  exact ⟨rfl, by simp [Instr.wellFormed, Config.fitsTime, fitsT], by simp [encode, hlvl, ht]⟩

/-- By the value of `OP`: the rows with operands by their lemmas above, the others are `OP` alone. -/
theorem readsBits_operation {c : Config} {op : Nat} {bs rest : Bits} {i : Instr} (hw : 1 ≤ c.w) (hop : op < 2 ^ 4)
    (h : decodeOperands c op bs = .ok (i, rest)) : ReadsBits c .operation (bitsOfNat 4 op ++ bs) i rest := by
  match op with
  | 0x1 => exact readsBits_pxUniform h
  | 0x2 => exact readsBits_pxArray h
  | 0x6 => exact readsBits_encSet hw h
  | 0x8 => exact readsBits_encIsrQ h
  | 0x9 => exact readsBits_encIsrB h
  | 0x0 | 0x3 | 0x4 | 0x5 | 0x7 | 0xA | 0xB | 0xC | 0xD | 0xE | 0xF =>
    cases h
    exact ⟨rfl, rfl, rfl⟩
  | op + 16 => omega

/-- Settles O4: the decoder of each format reads its key off the front, and the key and the operands read are the
encoding. -/
theorem encodeOfDecodeIsTheBits : Obligations.EncodeOfDecodeIsTheBits := by
  unfold Obligations.EncodeOfDecodeIsTheBits
  intro c f bits i rest hw h
  cases f with
  | operation =>
    obtain ⟨op, bs, hop, e, h⟩ := readField_ok h
    exact e ▸ readsBits_operation hw hop h
  | lutEntry | wireSymbol | btnCode | resultCode =>
    obtain ⟨key, bs, hk, e, h⟩ := readField_ok h
    interval_cases key <;> cases h <;> exact ⟨rfl, rfl, e⟩

/-- Settles O5: each word is decoded field by field. -/
theorem wordsOfTheProgramsDecode : Obligations.WordsOfTheProgramsDecode := by
  unfold Obligations.WordsOfTheProgramsDecode
  exact ⟨rfl, rfl, rfl, rfl, rfl, rfl, rfl, rfl, rfl, rfl⟩

end Sys2Proof.RoundTripProofs
end

section
/-! Whole-machine rules over all instructions: no instruction faults (R180), and which registers each may write. All but
the first are read off the inversion `exec_next` of `exec`. -/

namespace Sys2Proof.WriterProofs

open Sys2Proof Sys2Proof.Machine

/-! ### No fault (R180) -/

theorem inContext_ne_fault {o : Out} {f : Fault} (h : o ≠ .fault f) (c : Context) (s : State) :
    inContext c s o ≠ .fault f := by
  unfold inContext
  split_ifs <;> simp [h]

theorem canTransmit_ne_fault {o : Out} {f : Fault} (h : o ≠ .fault f) (s : State) : canTransmit s o ≠ .fault f := by
  unfold canTransmit
  split_ifs <;> simp [h]

theorem duringFrame_ne_fault {o : Out} {f : Fault} (h : o ≠ .fault f) (s : State) : duringFrame s o ≠ .fault f := by
  unfold duringFrame
  split_ifs <;> simp [h]

theorem whileSuspended_ne_fault {o : Out} {f : Fault} (h : o ≠ .fault f) (s : State) :
    whileSuspended s o ≠ .fault f := by
  refine inContext_ne_fault ?_ _ _
  split_ifs <;> simp [h]

/-- Settles O14: behind its guards an instruction answers next or refuses, and no guard faults. -/
theorem execNeverFaults : Obligations.ExecNeverFaults := by
  unfold Obligations.ExecNeverFaults
  intro i s f
  cases i
  case pxUniform => exact inContext_ne_fault (canTransmit_ne_fault (by simp) s) _ s
  case pxArray =>
    refine inContext_ne_fault (canTransmit_ne_fault ?_ s) _ s
    split <;> simp
  case bit0 | bit1 => exact whileSuspended_ne_fault (duringFrame_ne_fault (by simp) s) s
  case latch => exact whileSuspended_ne_fault (by simp) s
  case btnStateNone =>
    refine inContext_ne_fault ?_ _ s
    split_ifs <;> simp
  case unassigned3 | unassignedA | unassignedB | unassignedC | unassignedD | unassignedE | unassignedF
      | btnStateUnreachable => exact fun h => nomatch h
  all_goals exact inContext_ne_fault (by simp) _ s

/-! ### The kinds of answer -/

/-- What an instruction can answer, by what it writes: the rows of one format, and the two transmit operations, each as
one kind. -/
inductive Answer (s : State) : Instr → State → Prop
  | frame (i : Instr) (ts : List Triplet) (hi : i.isTransmit = true) : Answer s i (frameState s ts)
  | symbol (i : Instr) (p : TxPos) (l : Bool) (x : Symbol) (segments : List Segment) (hi : i.format = .wireSymbol)
      (suspended : s.ie = false) :
      Answer s i { s with tx := p, dout := l, sym := s.sym ++ [x], wire := s.wire ++ segments }
  | entry (i : Instr) (j : BitVec 4) (hi : i.format = .lutEntry) (hc : s.context = .interrupt) :
      Answer s i (applyIncrement (s.cfg.lut j) s)
  | btnCode (i : Instr) (b : BtnState) (hi : i.format = .btnCode) (hc : s.ie = false ∨ s.context = .interrupt) :
      Answer s i { s with btnState := b }
  | resultCode (i : Instr) (r : Ret) (hi : i.format = .resultCode) : Answer s i { s with ret := r }
  | pxBegin : Answer s .pxBegin { s with doutOe := true }
  | encBegin : Answer s .encBegin { s with pue := ⟨true, true, true⟩, pcie := true }
  | encGet : Answer s .encGet { s with ie := true, ret := .detents (detents s.cfg s.counter) }
  | encSetFails (v lo hi : Int) (w : Bool) (h : hi ≤ lo) : Answer s (.encSet v lo hi w) { s with ret := .status false }
  | encSetSucceeds (v lo hi : Int) (w : Bool) (h : lo < hi) :
      Answer s (.encSet v lo hi w) (deliver (.status true) (resume (replaceCounter v lo hi w s)))
  | btnGet : Answer s .btnGet { s with btnState := .none, ie := true, ret := .click s.btnState }
  | encIsrQ (a b : Bool) (hc : s.context = .interrupt) :
      Answer s (.encIsrQ a b) (applyIncrement (s.cfg.lut (pushSample s.hist a b)) (takeSample a b s))
  | encIsrB (lvl : Bool) (n : Nat) (hc : s.context = .interrupt) :
      Answer s (.encIsrB lvl n) (storeLevel lvl (buttonEdge lvl (timeOperand s.cfg n) s))

theorem exec_answer {i : Instr} {s t : State} (h : exec i s = .next t) : Answer s i t := by
  have effect := exec_next h
  cases i
  case pxUniform =>
    obtain ⟨-, -, -, rfl⟩ := effect
    exact .frame _ _ rfl
  case pxArray =>
    obtain ⟨-, -, -, ts, -, rfl⟩ := effect
    exact .frame _ ts rfl
  case bit0 | bit1 =>
    obtain ⟨-, -, hie, -, rfl⟩ := effect
    exact .symbol _ _ _ _ _ rfl hie
  case latch =>
    obtain ⟨-, -, hie, rfl⟩ := effect
    exact .symbol _ _ s.dout _ _ rfl hie
  case lut0 | lut1 | lut2 | lut3 | lut4 | lut5 | lut6 | lut7 | lut8 | lut9 | lut10 | lut11 | lut12 | lut13 | lut14
      | lut15 =>
    obtain ⟨hc, j, rfl⟩ := effect
    exact .entry _ j rfl hc
  case btnStateNone =>
    obtain ⟨-, hie, rfl⟩ := effect
    exact .btnCode _ _ rfl (.inl hie)
  case btnStateShortClick | btnStateLongClick =>
    obtain ⟨hc, rfl⟩ := effect
    exact .btnCode _ _ rfl (.inr hc)
  case resultFail | resultOk =>
    obtain ⟨-, rfl⟩ := effect
    exact .resultCode _ _ rfl
  case encSet v lo hi w =>
    obtain ⟨-, ⟨hle, rfl⟩ | ⟨hlt, rfl⟩⟩ := effect
    · exact .encSetFails v lo hi w hle
    · exact .encSetSucceeds v lo hi w hlt
  case encIsrQ a b =>
    obtain ⟨hc, rfl⟩ := effect
    exact .encIsrQ a b hc
  case encIsrB lvl n =>
    obtain ⟨hc, rfl⟩ := effect
    exact .encIsrB lvl n hc
  case pxBegin | encBegin | encGet | btnGet =>
    obtain ⟨-, rfl⟩ := effect
    constructor
  all_goals exact effect.elim

/-! ### Rows that are no operation -/

theorem ne_of_format {i j : Instr} (h : i.format ≠ j.format) : i ≠ j := fun e => h (e ▸ rfl)

theorem format_of_isTransmit {i : Instr} (hi : i.isTransmit = true) : i.format = .operation := by
  cases i
  case pxUniform | pxArray => rfl
  all_goals cases hi

theorem isTransmit_of_row {i : Instr} (hi : i.format ≠ .operation) : i.isTransmit = false := by
  by_contra h
  exact hi (format_of_isTransmit (by simpa using h))

/-! ### What the instructions leave as it is -/

/-- The edge of a button callback reaches the flag and the start time only. -/
theorem buttonEdge_frame (lvl : Bool) (t : Nat) (s : State) :
    ∃ b p, buttonEdge lvl t s = { s with btnState := b, pressStart := p } :=
  ⟨_, _, buttonEdge_eq lvl t s⟩

/-- Settles O53: no kind of answer reaches the parameters, the inputs, the context or the arrays, and only a returning
operation or a result row delivers. -/
theorem execLeavesTheInputs : Obligations.ExecLeavesTheInputs := by
  unfold Obligations.ExecLeavesTheInputs
  intro i s t h
  cases exec_answer h with
  | frame | symbol | entry | btnCode | pxBegin | encBegin | encGet | btnGet | encIsrQ => simp [frameState]
  | resultCode i r hi => simp [hi]
  | encSetFails v lo hi w | encSetSucceeds v lo hi w =>
    exact ⟨rfl, rfl, rfl, rfl, rfl, rfl, rfl, rfl, rfl, fun _ _ => rfl, fun _ _ no _ => absurd rfl (no v lo hi w)⟩
  | encIsrB lvl n =>
    obtain ⟨b, p, e⟩ := buttonEdge_frame lvl (timeOperand s.cfg n) s
    simp [e]

/-- Settles O51: each register of the encoder side is out of reach of every kind of answer but those of its writers. -/
theorem encoderRegistersHaveTheirWriters : Obligations.EncoderRegistersHaveTheirWriters := by
  unfold Obligations.EncoderRegistersHaveTheirWriters
  intro i s t h
  cases exec_answer h with
  | frame | symbol | resultCode | pxBegin | encBegin | encGet | btnGet | encSetFails => simp [frameState]
  | entry i j hi | btnCode i b hi => simp [hi]
  | encSetSucceeds v lo hi w =>
    exact ⟨fun _ no _ => absurd rfl (no v lo hi w), fun no => absurd rfl (no v lo hi w), fun _ => rfl,
      fun _ => ⟨rfl, rfl⟩, fun _ _ _ => rfl⟩
  | encIsrQ a b =>
    exact ⟨fun no _ _ => absurd rfl (no a b), fun _ => ⟨rfl, rfl, rfl⟩, fun no => absurd rfl (no a b),
      fun _ => ⟨rfl, rfl⟩, fun _ _ _ => rfl⟩
  | encIsrB lvl n =>
    obtain ⟨b, p, e⟩ := buttonEdge_frame lvl (timeOperand s.cfg n) s
    rw [e]
    exact ⟨fun _ _ _ => rfl, fun _ => ⟨rfl, rfl, rfl⟩, fun _ => rfl, fun no => absurd rfl (no lvl n),
      fun no _ _ => absurd rfl (no lvl n)⟩

/-- Only the two `begin` operations write a configuration bit, and they set it (R41). -/
theorem configuration_of_exec {i : Instr} {s t : State} (h : exec i s = .next t) :
    t.doutOe = (s.doutOe || decide (i = .pxBegin)) ∧ t.pcie = (s.pcie || decide (i = .encBegin)) ∧
      t.pue = if i = .encBegin then ⟨true, true, true⟩ else s.pue := by
  cases exec_answer h with
  | pxBegin | encBegin | encGet | encSetFails | encSetSucceeds | btnGet | encIsrQ => simp [replaceCounter]
  | frame i ts hi =>
    have ne : ∀ j, j.isTransmit = false → i ≠ j := by
      rintro j hj rfl
      simp [hi] at hj
    simp [frameState, ne .pxBegin rfl, ne .encBegin rfl]
  | symbol i _ _ _ _ hi | entry i _ hi | btnCode i _ hi | resultCode i _ hi =>
    have ne : ∀ j, j.format = .operation → i ≠ j := fun j hj => ne_of_format (by simp [hi, hj])
    simp [ne .pxBegin rfl, ne .encBegin rfl]
  | encIsrB lvl n =>
    obtain ⟨b, p, e⟩ := buttonEdge_frame lvl (timeOperand s.cfg n) s
    simp [e]

/-- The output belongs to the transmit operations and the wire symbols (R41, R197). -/
theorem output_of_exec {i : Instr} {s t : State} (h : exec i s = .next t) (ht : i.isTransmit = false)
    (hs : i.format ≠ .wireSymbol) : t.dout = s.dout ∧ t.tx = s.tx ∧ t.sym = s.sym ∧ t.wire = s.wire := by
  cases exec_answer h with
  | frame i ts hi => simp [hi] at ht
  | symbol i _ _ _ _ hi => exact absurd hi hs
  | entry | btnCode | resultCode | pxBegin | encBegin | encGet | encSetFails | encSetSucceeds | btnGet | encIsrQ =>
    exact ⟨rfl, rfl, rfl, rfl⟩
  | encIsrB lvl n =>
    obtain ⟨b, p, e⟩ := buttonEdge_frame lvl (timeOperand s.cfg n) s
    simp [e]

/-- Settles O52: the pull-up of a line is its bit of `PUE`; the rest is what the kinds of answer write. -/
theorem outputAndConfigurationHaveTheirWriters : Obligations.OutputAndConfigurationHaveTheirWriters := by
  unfold Obligations.OutputAndConfigurationHaveTheirWriters
  intro i s t h
  obtain ⟨hdoutOe, hpcie, hpue⟩ := configuration_of_exec h
  refine ⟨hdoutOe, hpcie, fun l => ?_, output_of_exec h⟩
  by_cases hi : i = .encBegin <;> cases l <;> simp [State.pullUp, hpue, hi]

/-- Settles O50: `RESUME` ends the transmit operations, the two reads and a successful `ENC_SET`, and nothing else writes
`IE`. -/
theorem operationsEndWithInterruptsEnabled : Obligations.OperationsEndWithInterruptsEnabled := by
  unfold Obligations.OperationsEndWithInterruptsEnabled
  intro i s t h
  cases exec_answer h with
  | frame i ts hi =>
    have ne : ∀ v lo hi w, i ≠ .encSet v lo hi w := by
      rintro v lo hi w rfl
      cases hi
    exact ⟨fun _ => rfl, fun v lo hi w e => absurd e (ne v lo hi w), fun _ _ no => by simp [hi] at no⟩
  | symbol i _ _ _ _ hi | entry i _ hi | btnCode i _ hi | resultCode i _ hi =>
    have ne : ∀ j, j.format = .operation → i ≠ j := fun j hj => ne_of_format (by simp [hi, hj])
    have noTransmit : i.isTransmit = false := isTransmit_of_row (by simp [hi])
    exact ⟨by simp [ne .encGet rfl, ne .btnGet rfl, noTransmit], fun v lo hi w e => absurd e (ne _ rfl),
      fun _ _ _ _ => rfl⟩
  | pxBegin | encBegin | encGet | btnGet | encIsrQ => simp [Instr.isTransmit]
  | encSetFails v lo hi w hle =>
    refine ⟨by simp [Instr.isTransmit], fun v' lo' hi' w' e => ?_, fun _ _ _ _ => rfl⟩
    cases e
    exact ⟨fun hlt => absurd hlt (not_lt.mpr hle), fun _ => rfl⟩
  | encSetSucceeds v lo hi w hlt =>
    refine ⟨fun _ => rfl, fun v' lo' hi' w' e => ?_, fun _ _ _ no => absurd rfl (no v lo hi w)⟩
    cases e
    exact ⟨fun _ => rfl, fun hle => absurd hlt (not_lt.mpr hle)⟩
  | encIsrB lvl n =>
    obtain ⟨b, p, e⟩ := buttonEdge_frame lvl (timeOperand s.cfg n) s
    simp [e, Instr.isTransmit]

/-! ### Steps: the parameters and the traces (R38, R39) -/

/-- The parameters stay, and the traces are extended at most. -/
def OnlyGrows (s t : State) : Prop := t.cfg = s.cfg ∧ s.sym <+: t.sym ∧ s.wire <+: t.wire

theorem onlyGrows_of_eq {s t : State} (hcfg : t.cfg = s.cfg) (hsym : t.sym = s.sym) (hwire : t.wire = s.wire) :
    OnlyGrows s t :=
  ⟨hcfg, hsym ▸ List.prefix_rfl, hwire ▸ List.prefix_rfl⟩

theorem exec_onlyGrows {i : Instr} {s t : State} (h : exec i s = .next t) : OnlyGrows s t := by
  cases exec_answer h with
  | frame | symbol => exact ⟨rfl, List.prefix_append .., List.prefix_append ..⟩
  | entry | btnCode | resultCode | pxBegin | encBegin | encGet | encSetFails | encSetSucceeds | btnGet | encIsrQ =>
    exact onlyGrows_of_eq rfl rfl rfl
  | encIsrB lvl n =>
    obtain ⟨b, p, e⟩ := buttonEdge_frame lvl (timeOperand s.cfg n) s
    exact onlyGrows_of_eq (by simp [e]) (by simp [e]) (by simp [e])

theorem runHandler_onlyGrows {s t : State} (h : runHandler s = .next t) : OnlyGrows s t := by
  rw [runHandler_frame h]
  exact onlyGrows_of_eq rfl rfl rfl

theorem setPin_onlyGrows (l : InLine) (v : Bool) (s : State) : OnlyGrows s (setPin l v s) := by
  rw [setPin_eq]
  exact onlyGrows_of_eq rfl rfl rfl

theorem event_onlyGrows {e : Event} {s t : State} (h : EventEffect e s t) : OnlyGrows s t := by
  cases e with
  | issue bits =>
    obtain ⟨i, tail, -, hexec⟩ := h
    exact exec_onlyGrows hexec
  | irq => exact runHandler_onlyGrows h.2
  | pin l v =>
    obtain rfl : t = setPin l v s := h
    exact setPin_onlyGrows l v s
  | release l =>
    obtain rfl : t = releasePin l s := h
    obtain ⟨v, n, e⟩ := releasePin_eq l s
    rw [e]
    exact setPin_onlyGrows l v { s with freeIndex := n }
  | time n =>
    obtain rfl : t = setTime n s := h
    exact onlyGrows_of_eq rfl rfl rfl
  | callerWrite r bytes =>
    obtain rfl : t = callerStore r bytes s := h
    exact onlyGrows_of_eq rfl rfl rfl

/-- Settles O54: an issued operation extends the traces at most, and every other step leaves them. -/
theorem parametersStayAndTracesGrow : Obligations.ParametersStayAndTracesGrow := by
  unfold Obligations.ParametersStayAndTracesGrow
  intro s t h
  rcases step_next h with ⟨-, -, rfl⟩ | ⟨-, -, -, run⟩ | ⟨-, -, -, rfl⟩ | ⟨e, rest, -, effect⟩
  · exact onlyGrows_of_eq rfl rfl rfl
  · exact runHandler_onlyGrows run
  · exact onlyGrows_of_eq rfl rfl rfl
  · have grows : OnlyGrows { s with script := rest } t := event_onlyGrows effect
    exact grows

/-! ### Steps: the pending flag (R186, R189) -/

theorem setPin_pending {s : State} (h : s.pcpend = true) (l : InLine) (v : Bool) : (setPin l v s).pcpend = true := by
  simp [ExceptionProofs.setPin_pcpend, h]

/-- Every event but a handler run leaves a pending flag pending. -/
theorem event_pending {e : Event} {s t : State} (h : EventEffect e s t) (he : e ≠ .irq) (pending : s.pcpend = true) :
    t.pcpend = true := by
  cases e with
  | issue bits =>
    obtain ⟨i, tail, -, hexec⟩ := h
    obtain ⟨-, -, -, -, -, hpcpend, -⟩ := execLeavesTheInputs i s t hexec
    exact hpcpend.trans pending
  | irq => exact absurd rfl he
  | pin l v =>
    obtain rfl : t = setPin l v s := h
    exact setPin_pending pending l v
  | release l =>
    obtain rfl : t = releasePin l s := h
    obtain ⟨v, n, e⟩ := releasePin_eq l s
    rw [e]
    exact setPin_pending (s := { s with freeIndex := n }) pending l v
  | time n =>
    obtain rfl : t = setTime n s := h
    exact pending
  | callerWrite r bytes =>
    obtain rfl : t = callerStore r bytes s := h
    exact pending

/-- Settles O48: a step that clears the flag is no event but a handler run, and without a script it is no idling. -/
theorem onlyTheHandlerClearsThePendingFlag : Obligations.OnlyTheHandlerClearsThePendingFlag := by
  unfold Obligations.OnlyTheHandlerClearsThePendingFlag
  intro s t h pending cleared
  have lost : t.pcpend ≠ true := by simp [cleared]
  rcases step_next h with ⟨-, -, rfl⟩ | ⟨hs, -, enabled, -⟩ | ⟨-, -, -, rfl⟩ | ⟨e, rest, hs, effect⟩
  · exact absurd pending lost
  · exact ⟨enabled, .inl hs⟩
  · exact absurd pending lost
  · obtain rfl : e = .irq := by
      by_contra he
      exact lost (event_pending effect he pending)
    exact ⟨effect.1, .inr ⟨rest, hs⟩⟩

end Sys2Proof.WriterProofs
end

section
/-! The invariant of a state between two steps (10_state.md): it holds after reset, every instruction the foreground can
issue keeps it, and so do the handler, the environment and the caller. -/

namespace Sys2Proof.InvariantProofs

open Sys2Proof Sys2Proof.Machine

/-! ### Reset (R40) -/

theorem resetWith_inv {c : Config} (h : c.Wf) : (State.resetWith c).Inv := by
  obtain ⟨-, -, minRange, lower, upper, maxRange⟩ := h.right
  exact {
    config := h
    lower := lower
    upper := upper
    minRange := minRange
    maxRange := maxRange
    pressRange := Nat.two_pow_pos _
    nowRange := Nat.two_pow_pos _
    foreground := rfl
    enabled := rfl
    idle := rfl
    low := rfl
    trace := rfl
    memory := Memory.wf_nil }

/-- Settles O1: the reset table is the definition of the state after reset. -/
theorem resetHoldsTheResetTable : Obligations.ResetHoldsTheResetTable := by
  unfold Obligations.ResetHoldsTheResetTable
  intro c
  exact ⟨rfl, rfl, rfl, rfl, rfl, rfl, rfl, rfl, rfl, rfl, rfl, rfl, rfl, rfl, rfl, rfl, rfl, rfl, rfl⟩

/-- Settles O2: the reset values of a well-formed configuration lie in their ranges, and the illustrative one is well
formed. -/
theorem resetMeetsTheInvariant : Obligations.ResetMeetsTheInvariant := by
  unfold Obligations.ResetMeetsTheInvariant
  exact ⟨fun c => resetWith_inv, resetWith_inv (by decide)⟩

/-! ### The counter stays within its limits (R24, R132) -/

/-- One update by a table entry. -/
theorem applyIncrement_within {s : State} (i : BitVec 4) (lo : s.counterMinLimit ≤ s.counter)
    (hi : s.counter ≤ s.counterMaxLimit) :
    let t := applyIncrement (s.cfg.lut i) s
    t.counterMinLimit ≤ t.counter ∧ t.counter ≤ t.counterMaxLimit := by
  rw [applyIncrement_counterAfter s _ (lut_range s.cfg i) lo hi]
  exact counterAfter_bounds s _ lo hi

/-- Settles O31: a table entry and a successful `ENC_SET` keep the order, and no other answer writes the counter or a
limit. -/
theorem counterStaysWithinLimits : Obligations.CounterStaysWithinLimits := by
  unfold Obligations.CounterStaysWithinLimits
  intro i s t hs lo hi h
  cases WriterProofs.exec_answer h with
  | frame | symbol | btnCode | resultCode | pxBegin | encBegin | encGet | encSetFails | btnGet => exact ⟨lo, hi⟩
  | entry i j => exact applyIncrement_within j lo hi
  | encIsrQ a b => exact applyIncrement_within (s := takeSample a b s) (pushSample s.hist a b) lo hi
  | encSetSucceeds v minLimit maxLimit w hlt =>
    obtain ⟨low, high, -, -⟩ := replaceCounter_bounds v minLimit maxLimit w s hs hlt
    exact ⟨low, high⟩
  | encIsrB lvl n =>
    obtain ⟨b, p, e⟩ := WriterProofs.buttonEdge_frame lvl (timeOperand s.cfg n) s
    rw [e]
    exact ⟨lo, hi⟩

/-! ### What keeps the invariant -/

theorem script_inv {s : State} (h : s.Inv) (script : List Event) : State.Inv { s with script := script } := { h with }

/-- Some triplets on the wire end with the line low, `IE = 1` and `tx` at `IDLE` (R113). -/
theorem frameState_inv {s : State} (h : s.Inv) (ts : List Triplet) : (frameState s ts).Inv :=
  { h with
    enabled := rfl
    idle := rfl
    low := rfl
    trace := traceLevel_frame s.cfg ts s.wire }

theorem replaceCounter_inv {s : State} (h : s.Inv) (value : Int) {lo hi : Int} (w : Bool) (hlt : lo < hi) :
    (replaceCounter value lo hi w s).Inv := by
  obtain ⟨-, -, hs, -⟩ := h.config
  obtain ⟨lower, upper, minRange, maxRange⟩ := replaceCounter_bounds value lo hi w s hs hlt
  exact { h with lower, upper, minRange, maxRange }

/-- The foreground runs with `IE = 1`, so neither a callback nor a row of a suspended step answers. -/
theorem exec_inv {i : Instr} {s t : State} (h : s.Inv) (hexec : exec i s = .next t) : t.Inv := by
  have notInterrupt : s.context ≠ .interrupt := by simp [h.foreground]
  have notSuspended : s.ie ≠ false := by simp [h.enabled]
  cases WriterProofs.exec_answer hexec with
  | frame i ts => exact frameState_inv h ts
  | symbol _ _ _ _ _ _ suspended => exact absurd suspended notSuspended
  | entry _ _ _ hc | encIsrQ _ _ hc | encIsrB _ _ hc => exact absurd hc notInterrupt
  | btnCode _ _ _ hc => exact (hc.elim notSuspended notInterrupt).elim
  | resultCode | pxBegin | encBegin | encSetFails => exact { h with }
  | encGet | btnGet => exact { h with enabled := rfl }
  | encSetSucceeds v lo hi w hlt => exact { replaceCounter_inv h v w hlt with enabled := rfl }

/-- The handler keeps the counter within its limits and stores `NOW` in `pressStart` at most. -/
theorem handled_inv {s : State} (h : s.Inv) : (handled s).Inv := by
  obtain ⟨lower, upper⟩ := counterAfter_bounds s (s.cfg.lut (pushSample s.hist s.pinA s.pinB)) h.lower h.upper
  have pressRange : (handled s).pressStart < 2 ^ s.cfg.tw := by
    rcases buttonEdge_pressStart s.pinBtn (timeOperand s.cfg s.now) s with e | e
    · exact e.trans_lt (timeOperand_lt s.cfg s.now)
    · exact e.trans_lt h.pressRange
  exact { h with lower, upper, pressRange, foreground := rfl }

theorem runHandler_inv {s t : State} (h : s.Inv) (run : runHandler s = .next t) : t.Inv := by
  rw [runHandler_handled h.lower h.upper] at run
  cases run
  exact handled_inv h

theorem setPin_inv {s : State} (h : s.Inv) (l : InLine) (v : Bool) : (setPin l v s).Inv := by
  rw [setPin_eq]
  exact { h with }

theorem event_inv {e : Event} {s t : State} (h : s.Inv) (effect : EventEffect e s t) : t.Inv := by
  cases e with
  | issue bits =>
    obtain ⟨i, tail, -, hexec⟩ := effect
    exact exec_inv h hexec
  | irq => exact runHandler_inv h effect.2
  | pin l v =>
    obtain rfl : t = setPin l v s := effect
    exact setPin_inv h l v
  | release l =>
    obtain rfl : t = releasePin l s := effect
    obtain ⟨v, n, e⟩ := releasePin_eq l s
    rw [e]
    exact setPin_inv (s := { s with freeIndex := n }) { h with } l v
  | time n =>
    obtain rfl : t = setTime n s := effect
    exact { h with nowRange := timeOperand_lt s.cfg n }
  | callerWrite r bytes =>
    obtain rfl : t = callerStore r bytes s := effect
    exact { h with memory := Memory.store_wf s.arrays r bytes h.memory }

/-- Settles O9: with nothing scheduled the foreground runs its handler or idles, and every event keeps the invariant. -/
theorem stepKeepsTheInvariant : Obligations.StepKeepsTheInvariant := by
  unfold Obligations.StepKeepsTheInvariant
  intro s t h hstep
  rcases step_next hstep with ⟨-, -, rfl⟩ | ⟨-, -, -, run⟩ | ⟨-, -, -, rfl⟩ | ⟨e, rest, -, effect⟩
  · exact { h with foreground := rfl }
  · exact runHandler_inv h run
  · exact h
  · exact event_inv (script_inv h rest) effect

end Sys2Proof.InvariantProofs
end

section
/-! The transmit operations (40_pixel_transmitter.md): the triplets a frame is made of, what it puts on the wire and how
long that takes, what it depends on, and that interrupts stay suspended in it. -/

namespace Sys2Proof.FrameProofs

open Sys2Proof Sys2Proof.Machine

/-! ### The triplets of a transmit operation (R101, R103) -/

/-- The triplets a transmit operation sends on a strip of `k` pixels; none for an array that is too short, and for the
other instructions. -/
def operandPixels (i : Instr) (k : Nat) (m : Memory) : Option (List Triplet) :=
  match i with
  | .pxUniform r g b => some (List.replicate k ⟨r, g, b⟩)
  | .pxArray r g b => readTriplets m r g b k 0
  | _ => none

theorem operandPixels_length {i : Instr} {k : Nat} {m : Memory} {ts : List Triplet}
    (h : operandPixels i k m = some ts) : ts.length = k := by
  cases i
  case pxUniform =>
    cases h
    exact List.length_replicate
  case pxArray => exact readTriplets_length h
  all_goals cases h

/-- Where R109 holds, a transmit operation is the frame of its triplets. -/
theorem exec_eq_sendFrame {i : Instr} {s : State} {ts : List Triplet} (hc : s.context = .foreground)
    (hd : s.doutOe = true) (ht : s.cfg.TimingOk) (h : operandPixels i s.cfg.k s.arrays = some ts) :
    exec i s = .next (sendFrame ts s) := by
  cases i
  case pxUniform =>
    cases h
    exact (inContext_of hc _).trans (canTransmit_of hd ht _)
  case pxArray r g b =>
    have hread : readTriplets s.arrays r g b s.cfg.k 0 = some ts := h
    refine (inContext_of hc _).trans ((canTransmit_of hd ht _).trans ?_)
    rw [hread]
  all_goals cases h

theorem exec_eq_frameState {i : Instr} {s : State} {ts : List Triplet} (hc : s.context = .foreground)
    (hd : s.doutOe = true) (ht : s.cfg.TimingOk) (h : operandPixels i s.cfg.k s.arrays = some ts) :
    exec i s = .next (frameState s ts) := by
  rw [exec_eq_sendFrame hc hd ht h, sendFrame_frameState s ts (operandPixels_length h) ht.1]

theorem exec_transmit_pixels {i : Instr} {s t : State} (hi : i.isTransmit = true) (h : exec i s = .next t) :
    ∃ ts, operandPixels i s.cfg.k s.arrays = some ts ∧ t = frameState s ts := by
  cases i
  case pxUniform =>
    obtain ⟨-, -, -, e⟩ := exec_next h
    exact ⟨_, rfl, e⟩
  case pxArray =>
    obtain ⟨-, -, -, ts, hread, e⟩ := exec_next h
    exact ⟨ts, hread, e⟩
  all_goals cases hi

/-! ### The arrays (R51, R103) -/

theorem readTriplets_arrayPixels {m : Memory} {r g b : ArrayRef} {k : Nat} (hr : k ≤ (m.array r).length)
    (hg : k ≤ (m.array g).length) (hb : k ≤ (m.array b).length) :
    readTriplets m r g b k 0 = some (arrayPixels m r g b k) := by
  rw [readTriplets_eq m r g b k 0 (by omega) (by omega) (by omega)]
  simp [arrayPixels]

theorem readTriplets_constant {m : Memory} {ra ga ba : ArrayRef} {r g b : Byte} {n pix : Nat}
    (h : ∀ i < n, memRead m ra (pix + i) = some r ∧ memRead m ga (pix + i) = some g ∧
      memRead m ba (pix + i) = some b) :
    readTriplets m ra ga ba n pix = some (List.replicate n ⟨r, g, b⟩) := by
  induction n generalizing pix with
  | zero => rfl
  | succ n ih =>
    obtain ⟨hr, hg, hb⟩ := h 0 (by omega)
    have first : readTriplet m ra ga ba pix = some ⟨r, g, b⟩ := by
      rw [Nat.add_zero] at hr hg hb
      simp only [readTriplet, hr, hg, hb]
    have others : readTriplets m ra ga ba n (pix + 1) = some (List.replicate n ⟨r, g, b⟩) :=
      ih fun i hi => by
        rw [Nat.add_assoc, Nat.add_comm 1 i]
        exact h (i + 1) (by omega)
    simp only [readTriplets, first, others, List.replicate_succ]

theorem readTriplets_congr {m m' : Memory} (h : ∀ r, m.array r = m'.array r) (r g b : ArrayRef) (n pix : Nat) :
    readTriplets m r g b n pix = readTriplets m' r g b n pix := by
  induction n generalizing pix with
  | zero => rfl
  | succ n ih =>
    have first : readTriplet m r g b pix = readTriplet m' r g b pix := by
      simp only [readTriplet, memRead, h]
    simp only [readTriplets, first, ih]

theorem operandPixels_congr {m m' : Memory} (h : ∀ r, m.array r = m'.array r) (i : Instr) (k : Nat) :
    operandPixels i k m = operandPixels i k m' := by
  cases i
  case pxArray r g b => exact readTriplets_congr h r g b k 0
  all_goals rfl

/-- Settles O18: arrays that are long enough are read whole, and a shorter one stops the reads, as K is at least 1. -/
theorem pxArraySendsTheFrame : Obligations.PxArraySendsTheFrame := by
  unfold Obligations.PxArraySendsTheFrame
  constructor
  · intro c r g b
    have hop : bitsOfNat 4 0x2 = [false, false, true, false] := by decide
    simp only [encode, hop, List.append_assoc]
  · intro r g b s hc hd ht
    constructor
    · intro hr hg hb
      exact exec_eq_frameState hc hd ht (readTriplets_arrayPixels hr hg hb)
    · intro short
      have hread := readTriplets_none s.arrays r g b s.cfg.k 0 ht.1 (by omega)
      refine (inContext_of hc _).trans ((canTransmit_of hd ht _).trans ?_)
      rw [hread]

/-- Settles O19: constant arrays are read as the triplets of `PX_UNIFORM`. -/
theorem constantArraysActAsUniform : Obligations.ConstantArraysActAsUniform := by
  unfold Obligations.ConstantArraysActAsUniform
  intro ra ga ba r g b s hc hd ht h
  have hread : operandPixels (.pxArray ra ga ba) s.cfg.k s.arrays = some (List.replicate s.cfg.k ⟨r, g, b⟩) :=
    readTriplets_constant fun i hi => by
      rw [Nat.zero_add]
      exact h i hi
  calc exec (.pxArray ra ga ba) s
      = .next (sendFrame (List.replicate s.cfg.k ⟨r, g, b⟩) s) := exec_eq_sendFrame hc hd ht hread
    _ = exec (.pxUniform r g b) s := (exec_eq_sendFrame hc hd ht rfl).symm

/-! ### What a frame puts on the wire (R75, R110) -/

theorem byteSymbols_length (v : Byte) : (byteSymbols v).length = 8 := by simp [byteSymbols]

theorem pixelSymbols_length (t : Triplet) : (pixelSymbols t).length = 24 := by
  simp [pixelSymbols, byteSymbols_length]

theorem flatMap_pixelSymbols_length (ts : List Triplet) : (ts.flatMap pixelSymbols).length = 24 * ts.length := by
  induction ts with
  | nil => rfl
  | cons t ts ih =>
    rw [List.flatMap_cons, List.length_append, pixelSymbols_length, ih, List.length_cons]
    omega

theorem latch_notMem_pixelSymbols (t : Triplet) : Symbol.latch ∉ pixelSymbols t := by
  have byte : ∀ v, Symbol.latch ∉ byteSymbols v := by
    intro v hv
    obtain ⟨j, -, hj⟩ := List.mem_map.mp hv
    split at hj <;> cases hj
  simp [pixelSymbols, byte]

theorem frameSymbols_length (ts : List Triplet) : (frameSymbols ts).length = 24 * ts.length + 1 := by
  rw [frameSymbols, List.length_append, flatMap_pixelSymbols_length, List.length_singleton]

theorem count_latch_frameSymbols (ts : List Triplet) : (frameSymbols ts).count .latch = 1 := by
  have pixels : (ts.flatMap pixelSymbols).count .latch = 0 := by
    refine List.count_eq_zero.mpr fun h => ?_
    obtain ⟨t, -, ht⟩ := List.mem_flatMap.mp h
    exact latch_notMem_pixelSymbols t ht
  rw [frameSymbols, List.count_append, pixels, List.count_singleton_self]

/-- Every symbol is one of the three. -/
theorem count_symbols (xs : List Symbol) : xs.count .bit1 + xs.count .bit0 + xs.count .latch = xs.length := by
  induction xs with
  | nil => rfl
  | cons x xs ih => cases x <;> simp <;> omega

theorem wireCycles_append (xs ys : List Segment) : wireCycles (xs ++ ys) = wireCycles xs + wireCycles ys := by
  simp [wireCycles]

/-- The cycles of some symbols, by how many there are of each (R73, R74). -/
theorem wireCycles_symbols (c : Config) (xs : List Symbol) : wireCycles (xs.flatMap (symbolSegments c)) =
    xs.count .bit1 * (c.cyc c.t1hNs + c.cyc c.t1lNs) + xs.count .bit0 * (c.cyc c.t0hNs + c.cyc c.t0lNs) +
      xs.count .latch * c.latchCyc := by
  induction xs with
  | nil => simp [wireCycles]
  | cons x xs ih =>
    rw [List.flatMap_cons, wireCycles_append, ih]
    cases x <;> simp [symbolSegments, wireCycles] <;> ring

/-- Settles O21: a frame writes `IE`, `DOUT`, `tx` and the traces only, and K pixels and a latch are `24 K + 1` symbols. -/
theorem transmitEndState : Obligations.TransmitEndState := by
  unfold Obligations.TransmitEndState
  intro i s t hi h
  obtain ⟨-, hd, -, ts, hlen, rfl⟩ := transmit_next hi h
  refine ⟨rfl, hd, ?_, fun r j => rfl⟩
  rw [frameState, List.length_append, frameSymbols_length, hlen, Nat.add_assoc]

/-- Settles O22: the ones and zeros are all the symbols of the frame but its one latch, and the cycles are counted by
symbol. -/
theorem frameDurationIsTheFormula : Obligations.FrameDurationIsTheFormula := by
  unfold Obligations.FrameDurationIsTheFormula
  intro i s t hi h
  obtain ⟨-, -, -, ts, hlen, rfl⟩ := transmit_next hi h
  have latch := count_latch_frameSymbols ts
  have total := count_symbols (frameSymbols ts)
  rw [latch, frameSymbols_length, hlen] at total
  refine ⟨(frameSymbols ts).count .bit1, (frameSymbols ts).count .bit0, by omega, List.count_append, List.count_append,
    ?_, ?_⟩
  · rw [frameState, List.count_append, latch]
  · simp only [frameState, wireCycles_append, frameSegments, wireCycles_symbols, latch, Nat.one_mul, Nat.add_assoc]

/-! ### What a frame depends on (R64, R115) -/

/-- Settles O23: the triplets depend on the operands, the arrays and K, and the symbols on the triplets. -/
theorem framesAreIndependent : Obligations.FramesAreIndependent := by
  unfold Obligations.FramesAreIndependent
  intro i s s' t t' hi hk harrays h h'
  obtain ⟨ts, hts, rfl⟩ := exec_transmit_pixels hi h
  obtain ⟨ts', hts', rfl⟩ := exec_transmit_pixels hi h'
  have same : some ts = some ts' := by rw [← hts, ← hts', hk, operandPixels_congr harrays]
  cases same
  exact ⟨frameSymbols ts, rfl, rfl⟩

theorem setPin_frameState (l : InLine) (v : Bool) (s : State) (ts : List Triplet) :
    setPin l v (frameState s ts) = frameState (setPin l v s) ts := by
  rw [setPin_eq, setPin_eq]
  cases l <;> rfl

theorem releasePin_frameState (l : InLine) (s : State) (ts : List Triplet) :
    releasePin l (frameState s ts) = frameState (releasePin l s) ts := by
  have hpull : (frameState s ts).pullUp l = s.pullUp l := by cases l <;> rfl
  unfold releasePin
  rw [hpull]
  split
  · exact setPin_frameState l true s ts
  · exact setPin_frameState l _ { s with freeIndex := s.freeIndex + 1 } ts

/-- What a transmit operation reads of the state. -/
def SameTransmit (s u : State) : Prop :=
  u.context = s.context ∧ u.doutOe = s.doutOe ∧ u.cfg = s.cfg ∧ u.arrays = s.arrays

theorem setPin_sameTransmit (l : InLine) (v : Bool) (s : State) : SameTransmit s (setPin l v s) := by
  rw [setPin_eq]
  exact ⟨rfl, rfl, rfl, rfl⟩

theorem releasePin_sameTransmit (l : InLine) (s : State) : SameTransmit s (releasePin l s) := by
  obtain ⟨v, n, e⟩ := releasePin_eq l s
  rw [e]
  exact setPin_sameTransmit l v { s with freeIndex := n }

/-- A step of the environment is the same before a frame as after it, and keeps what the frame reads. -/
theorem environment_frameState {e : Event}
    (he : (∃ l v, e = .pin l v) ∨ (∃ l, e = .release l) ∨ ∃ n, e = .time n) (s : State) (ts : List Triplet) :
    ∃ u, runEvent e s = .next u ∧ runEvent e (frameState s ts) = .next (frameState u ts) ∧ SameTransmit s u := by
  rcases he with ⟨l, v, rfl⟩ | ⟨l, rfl⟩ | ⟨n, rfl⟩
  · exact ⟨setPin l v s, rfl, by rw [runEvent, setPin_frameState], setPin_sameTransmit l v s⟩
  · exact ⟨releasePin l s, rfl, by rw [runEvent, releasePin_frameState], releasePin_sameTransmit l s⟩
  · exact ⟨setTime n s, rfl, rfl, rfl, rfl, rfl, rfl⟩

/-- Settles O24: the environment writes nothing a frame reads or writes. -/
theorem environmentCommutesWithAFrame : Obligations.EnvironmentCommutesWithAFrame := by
  unfold Obligations.EnvironmentCommutesWithAFrame
  intro i s t u e hi he h hu
  obtain ⟨hc, hd, ht, -⟩ := transmit_next hi h
  obtain ⟨ts, hts, rfl⟩ := exec_transmit_pixels hi h
  obtain ⟨u', hu', hafter, hcontext, hdoutOe, hcfg, harrays⟩ := environment_frameState he s ts
  obtain rfl : u' = u := by
    rw [hu'] at hu
    cases hu
    rfl
  refine ⟨frameState u' ts, ?_, hafter⟩
  exact exec_eq_frameState (hcontext.trans hc) (hdoutOe.trans hd) (hcfg ▸ ht) (by rw [hcfg, harrays, hts])

/-! ### The actions of a frame (R102, R104 to R107) -/

theorem perform_pixelActions (s : State) (t : Triplet) {c : Config} (hc : s.cfg = c) :
    perform (pixelActions c t) s = sendPixel t s := by
  simp only [pixelActions, perform_append, perform_cons]
  rw [perform_byteActions _ t.g c (by simp [hc]), perform_byteActions _ t.r c (by simp [hc]),
    perform_byteActions _ t.b c (by simp [hc])]
  rfl

theorem perform_pixelsActions (ts : List Triplet) (pix : Nat) (s : State) {c : Config} (hc : s.cfg = c) :
    perform (pixelsActions c ts pix) s = sendPixels ts pix s := by
  induction ts generalizing s pix with
  | nil => rfl
  | cons t ts ih =>
    simp only [pixelsActions, perform_append, perform_cons]
    rw [perform_pixelActions _ t (by simp [hc]), ih _ _ (by simp [hc])]
    rfl

theorem perform_frameActions (ts : List Triplet) (s : State) :
    perform (frameActions s.cfg ts) s = showFrame (sendPixels ts 0 s) := by
  obtain ⟨p, hp⟩ := sendPixels_eq s ts 0
  have hcfg : (sendPixels ts 0 s).cfg = s.cfg := by rw [hp]
  rw [frameActions, perform_append, perform_pixelsActions ts 0 s rfl, ← hcfg]
  rfl

/-- An action that neither suspends nor resumes. -/
def LeavesIe (act : FrameAction) : Prop := ∀ s, (act s).ie = s.ie

theorem bitActions_leavesIe (c : Config) (v : Bool) : ∀ act ∈ bitActions c v, LeavesIe act := by
  simp [bitActions, LeavesIe]

theorem byteActions_leavesIe (c : Config) (v : Byte) : ∀ act ∈ byteActions c v, LeavesIe act := by
  intro act hact
  obtain ⟨bit, -, hact⟩ := List.mem_flatMap.mp hact
  rcases List.mem_cons.mp hact with rfl | hact
  · exact fun _ => rfl
  · exact bitActions_leavesIe c _ act hact

theorem pixelActions_leavesIe (c : Config) (t : Triplet) : ∀ act ∈ pixelActions c t, LeavesIe act := by
  simp only [pixelActions, List.forall_mem_append, List.forall_mem_cons]
  exact ⟨⟨⟨fun _ => rfl, byteActions_leavesIe c t.g⟩, fun _ => rfl, byteActions_leavesIe c t.r⟩, fun _ => rfl,
    byteActions_leavesIe c t.b⟩

theorem pixelsActions_leavesIe (c : Config) (ts : List Triplet) (pix : Nat) :
    ∀ act ∈ pixelsActions c ts pix, LeavesIe act := by
  induction ts generalizing pix with
  | nil => simp [pixelsActions]
  | cons t ts ih =>
    simp only [pixelsActions, List.forall_mem_append, List.forall_mem_cons]
    exact ⟨⟨fun _ => rfl, pixelActions_leavesIe c t⟩, ih (pix + 1)⟩

theorem frameActions_leavesIe (c : Config) (ts : List Triplet) : ∀ act ∈ frameActions c ts, LeavesIe act := by
  refine List.forall_mem_append.mpr ⟨pixelsActions_leavesIe c ts 0, ?_⟩
  simp [showActions, LeavesIe]

/-- No handler run is legal while interrupts are suspended (R187). -/
theorem step_irq_of_suspended {m : State} (h : m.ie = false) (rest : List Event) :
    step { m with script := .irq :: rest } = .refused .handlerNotEnabled := by
  have masked : State.handlerEnabled { m with script := rest } = false :=
    ExceptionProofs.handlerEnabled_eq_false (.inr (.inl h))
  exact ExceptionProofs.irqStep_of_not_enabled masked

/-- Settles O20: the two operations are the frame of their triplets, the frame is the sequence of its actions between
`SUSPEND` and `RESUME`, and none of these writes `IE`. -/
theorem interruptsStaySuspendedInAFrame : Obligations.InterruptsStaySuspendedInAFrame := by
  unfold Obligations.InterruptsStaySuspendedInAFrame
  intro s hc hd ht
  refine ⟨fun r g b => ?_, fun r g b hr hg hb => ?_, fun ts => ⟨rfl, ?_, fun n rest => ?_⟩⟩
  · exact exec_eq_sendFrame hc hd ht rfl
  · exact exec_eq_sendFrame hc hd ht (readTriplets_arrayPixels hr hg hb)
  · exact (perform_frameActions ts (suspend s)).symm
  · have suspended : (perform ((frameActions s.cfg ts).take n) (suspend s)).ie = false :=
      perform_ie (suspend s) _ fun act hact => frameActions_leavesIe s.cfg ts act (List.mem_of_mem_take hact)
    exact ⟨suspended, ExceptionProofs.handlerEnabled_eq_false (.inr (.inl suspended)),
      step_irq_of_suspended suspended rest⟩

/-! ### Preconditions and single symbols -/

theorem exec_transmit_guarded {i : Instr} (hi : i.isTransmit = true) (s : State) :
    ∃ o, exec i s = inContext .foreground s (canTransmit s o) := by
  cases i
  case pxUniform | pxArray => exact ⟨_, rfl⟩
  all_goals cases hi

/-- Settles O13: both operations stand behind the two tests of `canTransmit`. -/
theorem transmitNeedsItsPreconditions : Obligations.TransmitNeedsItsPreconditions := by
  unfold Obligations.TransmitNeedsItsPreconditions
  intro i s hi hc
  obtain ⟨o, ho⟩ := exec_transmit_guarded hi s
  rw [ho, inContext_of hc]
  exact ⟨fun hd => if_pos hd, fun hd ht => (if_neg (by simp [hd])).trans (if_neg ht)⟩

/-- Settles O16: each `begin` leaves the context, so it answers again, with the same writes. -/
theorem beginIsIdempotent : Obligations.BeginIsIdempotent := by
  unfold Obligations.BeginIsIdempotent
  intro s t
  constructor
  · intro h
    obtain ⟨hc, rfl⟩ := exec_next h
    exact PixelProofs.exec_pxBegin hc
  · intro h
    obtain ⟨hc, rfl⟩ := exec_next h
    exact DecoderProofs.exec_encBegin hc

theorem whileSuspended_of {s : State} (hc : s.context = .foreground) (hd : s.doutOe = true) (hi : s.ie = false)
    (o : Out) : whileSuspended s o = o := by
  rw [whileSuspended, inContext_of hc, if_neg (by simp [hd]), if_neg (by simp [hi])]

theorem duringFrame_of {s : State} (h : s.tx.isSending = true) (o : Out) : duringFrame s o = o := if_pos h

/-- Settles O25: behind its guards a bit symbol is `SendBit` and the latch is `Show`. -/
theorem wireSymbolsCompleteInAFrame : Obligations.WireSymbolsCompleteInAFrame := by
  unfold Obligations.WireSymbolsCompleteInAFrame
  intro s hc hd hi
  have guarded := whileSuspended_of hc hd hi
  refine ⟨fun pix ch bit ph htx => ?_, guarded _⟩
  have sending := duringFrame_of (s := s) (by simp [htx, TxPos.isSending])
  constructor
  · calc exec .bit0 s = .next (sendBit false s) := (guarded _).trans (sending _)
      _ = _ := by rw [sendBit_eq, htx]; rfl
  · calc exec .bit1 s = .next (sendBit true s) := (guarded _).trans (sending _)
      _ = _ := by rw [sendBit_eq, htx]; rfl

end Sys2Proof.FrameProofs
end

section
/-! The counter operations (41_quadrature_decoder.md): the lookup table and its rows, `ENC_GET`, `ENC_SET`. -/

namespace Sys2Proof.CounterProofs

open Sys2Proof Sys2Proof.Machine

/-! ### The lookup table (R84) -/

/-- The entry of R84 for a change of one line. -/
theorem lut_move (c : Config) (a b : Bool) (l : EncLine) :
    c.lut (sample a b ++ sample (moveLevels a b l).1 (moveLevels a b l).2) = c.qdir.sign * moveSign a b l := by
  have entry : lutTable.getD (sample a b ++ sample (moveLevels a b l).1 (moveLevels a b l).2).toNat 0 =
      moveSign a b l := by
    revert a b
    cases l <;> decide
  rw [Config.lut, entry]

theorem lut_same (c : Config) (a b : Bool) : c.lut (sample a b ++ sample a b) = 0 := by
  have entry : lutTable.getD (sample a b ++ sample a b).toNat 0 = 0 := by revert a b; decide
  rw [Config.lut, entry, mul_zero]

theorem lut_both (c : Config) (a b : Bool) : c.lut (sample a b ++ sample (!a) (!b)) = 0 := by
  have entry : lutTable.getD (sample a b ++ sample (!a) (!b)).toNat 0 = 0 := by revert a b; decide
  rw [Config.lut, entry, mul_zero]

/-- Settles O27: one line changed is a move, and the entries of no change and of both changed are 0. -/
theorem lookupTableCountsLegalSteps : Obligations.LookupTableCountsLegalSteps := by
  unfold Obligations.LookupTableCountsLegalSteps
  intro c a b
  exact ⟨lut_move c a b .a, lut_move c a b .b, lut_same c a b, lut_both c a b⟩

/-! ### The rows of the table (R131, R134) -/

theorem counterAfter_zero (s : State) : counterAfter s 0 = s.counter := if_pos rfl

theorem selectEntry_eq {s : State} (hc : s.context = .interrupt) (lo : s.counterMinLimit ≤ s.counter)
    (hi : s.counter ≤ s.counterMaxLimit) (i : BitVec 4) :
    selectEntry i s = .next { s with counter := counterAfter s (s.cfg.lut i) } :=
  calc selectEntry i s = .next (applyIncrement (s.cfg.lut i) s) := inContext_of hc _
    _ = _ := by rw [applyIncrement_counterAfter s _ (lut_range s.cfg i) lo hi]

/-- Settles O29: each row is its entry, and an entry is the sign of the build, its opposite or 0. -/
theorem lookupRowsApplyTheirIncrement : Obligations.LookupRowsApplyTheirIncrement := by
  unfold Obligations.LookupRowsApplyTheirIncrement
  intro s hc lo hi forward backward
  have update := selectEntry_eq hc lo hi
  have forth : ∀ i : BitVec 4, lutTable.getD i.toNat 0 = 1 → selectEntry i s = forward := fun i entry => by
    rw [update, Config.lut, entry, mul_one]
  have back : ∀ i : BitVec 4, lutTable.getD i.toNat 0 = -1 → selectEntry i s = backward := fun i entry => by
    rw [update, Config.lut, entry, mul_neg_one]
  have stay : ∀ i : BitVec 4, lutTable.getD i.toNat 0 = 0 → selectEntry i s = .next s := fun i entry => by
    rw [update, Config.lut, entry, mul_zero, counterAfter_zero]
  exact ⟨stay 0 rfl, back 1 rfl, forth 2 rfl, stay 3 rfl, forth 4 rfl, stay 5 rfl, stay 6 rfl, back 7 rfl,
    back 8 rfl, stay 9 rfl, stay 10 rfl, forth 11 rfl, stay 12 rfl, forth 13 rfl, back 14 rfl, stay 15 rfl⟩

theorem exec_lutRow (i : BitVec 4) (s : State) : exec (lutRow i) s = selectEntry i s := by
  obtain ⟨⟨n, hn⟩⟩ := i
  interval_cases n <;> rfl

/-- Settles O30: after its first action the callback is the entry at the new history. -/
theorem encIsrQIsOneLookupRow : Obligations.EncIsrQIsOneLookupRow := by
  unfold Obligations.EncIsrQIsOneLookupRow
  intro a b s h
  rw [exec_lutRow]
  rfl

/-! ### ENC_GET (R136, R152) -/

theorem exec_encGet {s : State} (hc : s.context = .foreground) :
    exec .encGet s = .next { s with ie := true, ret := .detents (detents s.cfg s.counter) } := inContext_of hc _

/-- Truncation toward zero, by the sign (R152). -/
theorem detents_eq (c : Config) (v : Int) : detents c v = if 0 ≤ v then v / c.s else -(-v / c.s) := by
  unfold detents
  split_ifs with h
  · exact Int.tdiv_eq_ediv_of_nonneg h
  · rw [← Int.tdiv_eq_ediv_of_nonneg (a := -v) (by omega), Int.neg_tdiv, neg_neg]

/-- Settles O34: the quotient toward zero is the one by the sign of the counter. -/
theorem encGetDeliversDetents : Obligations.EncGetDeliversDetents := by
  unfold Obligations.EncGetDeliversDetents
  refine ⟨fun c => rfl, fun s => ⟨fun hc => ?_, fun hc => ?_⟩⟩
  · rw [exec_encGet hc, detents_eq]
  · exact EncodingProofs.exec_wrongContext rfl (by simp [hc, Instr.issuer])

/-- The safe sub-range lies within the integer range (R6). -/
theorem limits_range (c : Config) (hs : 1 ≤ c.s) : c.intMin ≤ c.limLo ∧ c.limHi ≤ c.intMax := by
  obtain ⟨low, high, neg, nonneg⟩ := scale_limits c hs
  have hs' : (1 : Int) ≤ c.s := by omega
  constructor <;> nlinarith

/-- Settles O35: division toward zero is monotone, and the ends of the integer range divide to those of the safe
sub-range. -/
theorem encGetStaysInRange : Obligations.EncGetStaysInRange := by
  unfold Obligations.EncGetStaysInRange
  intro s t h hexec
  obtain ⟨hc, rfl⟩ := exec_next hexec
  obtain ⟨-, hs, -⟩ := h.config.right
  have hpos : (0 : Int) < s.cfg.s := by omega
  obtain ⟨low, high⟩ := limits_range s.cfg hs
  have lower : s.counterMinLimit.tdiv s.cfg.s ≤ detents s.cfg s.counter := Int.tdiv_le_tdiv hpos h.lower
  have upper : detents s.cfg s.counter ≤ s.counterMaxLimit.tdiv s.cfg.s := Int.tdiv_le_tdiv hpos h.upper
  have minRange : s.cfg.limLo ≤ s.counterMinLimit.tdiv s.cfg.s := Int.tdiv_le_tdiv hpos h.minRange
  have maxRange : s.counterMaxLimit.tdiv s.cfg.s ≤ s.cfg.limHi := Int.tdiv_le_tdiv hpos h.maxRange
  exact ⟨_, rfl, lower, upper, (low.trans minRange).trans lower, (upper.trans maxRange).trans high, exec_encGet hc⟩

/-! ### ENC_SET (R140, R143) -/

theorem clamp_eq_max_min {lo hi : Int} (h : lo ≤ hi) (v : Int) : clamp v lo hi = max lo (min v hi) := by
  unfold clamp
  split_ifs <;> omega

theorem limLo_le_limHi (c : Config) (hs : 1 ≤ c.s) : c.limLo ≤ c.limHi := by
  obtain ⟨-, -, neg, nonneg⟩ := scale_limits c hs
  exact neg.trans nonneg

theorem exec_encSet_of_ge {s : State} (value : Int) {lo hi : Int} (w : Bool) (hc : s.context = .foreground)
    (h : hi ≤ lo) : exec (.encSet value lo hi w) s = .next { s with ret := .status false } :=
  calc exec (.encSet value lo hi w) s
      = .next (if lo ≥ hi then deliver (.status false) s
          else deliver (.status true) (atomic (replaceCounter value lo hi w) s)) := inContext_of hc _
    _ = .next { s with ret := .status false } := by rw [if_pos h]; rfl

/-- Settles O36: the test on the limits as given decides, and the clamps are the ones by maximum and minimum. -/
theorem encSetReplacesOrFails : Obligations.EncSetReplacesOrFails := by
  unfold Obligations.EncSetReplacesOrFails
  constructor
  · intro c value lo hi w
    have hop : bitsOfNat 4 0x6 = [false, true, true, false] := by decide
    simp only [encode, signedField, hop, List.append_assoc]
  · intro value minLimit maxLimit w s
    refine ⟨fun hc h => exec_encSet_of_ge value w hc h, ?_, fun hc => ?_⟩
    · intro hc h hs lo hi
      have hle := limLo_le_limHi s.cfg hs
      have hlo : clamp minLimit s.cfg.limLo s.cfg.limHi = lo := clamp_eq_max_min hle minLimit
      have hhi : clamp maxLimit s.cfg.limLo s.cfg.limHi = hi := clamp_eq_max_min hle maxLimit
      have ordered : lo ≤ hi := by
        rw [← hlo, ← hhi]
        exact clamp_mono minLimit maxLimit _ _ h.le hle
      rw [DecoderProofs.exec_encSet_of_lt value w hc h, ← clamp_eq_max_min ordered, ← hlo, ← hhi]
      rfl
    · exact EncodingProofs.exec_wrongContext rfl (by simp [hc, Instr.issuer])

theorem clamp_of_ge {v lo hi : Int} (hle : lo ≤ hi) (h : hi ≤ v) : clamp v lo hi = hi := by
  rw [clamp_eq_max_min hle, min_eq_right h, max_eq_right hle]

theorem clamp_of_le {v lo hi : Int} (hle : lo ≤ hi) (h : v ≤ lo) : clamp v lo hi = lo := by
  rw [clamp_eq_max_min hle, max_eq_left ((min_le_left v hi).trans h)]

/-- A clamp between equal limits. -/
theorem clamp_self (v x : Int) : clamp v x x = x := by
  rw [clamp_eq_max_min le_rfl, max_eq_left (min_le_right v x)]

/-- The counter between equal limits does not move, wrapping or not. -/
theorem counterAfter_of_limits_eq {s : State} (inc : Int) (hlo : s.counterMinLimit = s.counter)
    (hhi : s.counterMaxLimit = s.counter) : counterAfter s inc = s.counter := by
  simp [counterAfter, hlo, hhi]

/-- Settles O38: limits clamped to the same end leave nothing between them for the value, and no increment moves a
counter that meets both limits. -/
theorem limitsEqualByClampingFreezeTheCounter : Obligations.LimitsEqualByClampingFreezeTheCounter := by
  unfold Obligations.LimitsEqualByClampingFreezeTheCounter
  constructor
  · intro value minLimit maxLimit w s t hs hlt h
    have hle := limLo_le_limHi s.cfg hs
    obtain ⟨-, ⟨hge, -⟩ | ⟨-, rfl⟩⟩ := exec_next h
    · omega
    constructor
    · intro high
      have hlo := clamp_of_ge hle high
      have hhi := clamp_of_ge hle (high.trans hlt.le)
      simp [replaceCounter, hlo, hhi, clamp_self, scale]
    · intro low
      have hlo := clamp_of_le hle (hlt.le.trans low)
      have hhi := clamp_of_le hle low
      simp [replaceCounter, hlo, hhi, clamp_self, scale]
  · intro a b s t hlo hhi h
    obtain ⟨hc, -⟩ := exec_next h
    rw [DecoderProofs.exec_encIsrQ a b hc hlo.le hhi.ge] at h
    cases h
    exact counterAfter_of_limits_eq _ hlo hhi

end Sys2Proof.CounterProofs
end

section
/-! Single steps: the issue of an operation, the handler run, the caller's write and a released line (20_memory.md,
60_exceptions.md), and the flag of the button (42_button_classifier.md). -/

namespace Sys2Proof.StepProofs

open Sys2Proof Sys2Proof.Machine

/-! ### Issuing an operation (R62, R70) -/

theorem issueOperation_of_ok {s : State} {bits tail : Bits} {i : Instr}
    (h : decode s.cfg .operation bits = .ok (i, tail)) : issueOperation bits s = exec i s := by
  simp only [issueOperation, h]

theorem issueOperation_of_error {s : State} {bits : Bits} {e : Reject} (h : decode s.cfg .operation bits = .error e) :
    issueOperation bits s = .fault .truncatedOperation := by
  simp only [issueOperation, h]

/-- Settles O6: the step of an issue is the issue, which executes what it decodes. -/
theorem stepRunsTheIssuedOperation : Obligations.StepRunsTheIssuedOperation := by
  unfold Obligations.StepRunsTheIssuedOperation
  intro s bits rest hs
  have hstep : step s = issueOperation bits { s with script := rest } := ExceptionProofs.step_of_script hs
  exact ⟨fun i tail h => hstep.trans (issueOperation_of_ok h), fun e h => hstep.trans (issueOperation_of_error h)⟩

theorem withFetchWord_eq {s : State} {nbits w : Nat} {i : Instr} {tail : Bits}
    (h : decode s.cfg .operation (tableBits s.cfg nbits w) = .ok (i, tail)) :
    s.withFetchWord nbits w =
      { s with script := .issue (tableBits s.cfg nbits w) :: s.script, context := i.issuer } := by
  simp only [State.withFetchWord, scheduleWord, h]

/-- Settles O7: the scheduled word is the next event, and its issuer is executing. -/
theorem fetchWordIsExecutedNext : Obligations.FetchWordIsExecutedNext := by
  unfold Obligations.FetchWordIsExecutedNext
  intro s nbits w i tail h
  rw [withFetchWord_eq h]
  exact issueOperation_of_ok (s := { s with context := i.issuer }) h

/-! ### The handler (R187 to R192) -/

theorem step_of_no_script {s : State} (hs : s.script = []) (hc : s.context = .foreground) :
    step s = if s.handlerEnabled then runHandler s else .next s := by
  simp only [step, hs, idleStep, hc]

/-- Settles O8: idling and a scheduled handler run take the same run, on the same state. -/
theorem unscheduledHandlerTakesItsStep : Obligations.UnscheduledHandlerTakesItsStep := by
  unfold Obligations.UnscheduledHandlerTakesItsStep
  intro s hs hc
  rw [step_of_no_script hs hc]
  constructor
  · intro enabled
    have same : ({ s with script := [] } : State) = s := by rw [← hs]
    calc (if s.handlerEnabled then runHandler s else .next s)
        = runHandler s := if_pos enabled
      _ = irqStep s := (ExceptionProofs.irqStep_of_enabled enabled).symm
      _ = irqStep { s with script := [] } := by rw [same]
  · intro masked
    exact if_neg (by simp [masked])

/-- Settles O46: a run answers next only when the handler is enabled, so it returns to the context it left. -/
theorem handlerWritesOnlyItsRegisters : Obligations.HandlerWritesOnlyItsRegisters := by
  unfold Obligations.HandlerWritesOnlyItsRegisters
  intro s t rest hs h
  rw [ExceptionProofs.step_of_script hs] at h
  obtain ⟨enabled, run⟩ : EventEffect .irq { s with script := rest } t := runEvent_next h
  obtain ⟨-, -, (hc : s.context = .foreground)⟩ := (ExceptionProofs.handlerEnabled_eq_true_iff _).mp enabled
  have hist : t.hist = pushSample s.hist s.pinA s.pinB := by rw [runHandler_frame run]
  have prevBtn : t.prevBtn = s.pinBtn := by rw [runHandler_frame run]
  rw [hist, prevBtn, hc]
  exact runHandler_frame run

/-- The edge of the button and the update of the counter read and write different registers (R191). -/
theorem callbacks_commute (a b lvl : Bool) (n : Nat) (d : Int) (s : State) :
    storeLevel lvl (buttonEdge lvl n (applyIncrement d (takeSample a b s))) =
      applyIncrement d (takeSample a b (storeLevel lvl (buttonEdge lvl n s))) := by
  cases hp : s.prevBtn <;> cases lvl <;> simp [buttonEdge, hp] <;> rfl

theorem exec_encIsrQ_applyIncrement {s : State} (hc : s.context = .interrupt) (a b : Bool) :
    exec (.encIsrQ a b) s = .next (applyIncrement (s.cfg.lut (pushSample s.hist a b)) (takeSample a b s)) :=
  inContext_of hc _

theorem exec_encIsrB_buttonEdge {s : State} (hc : s.context = .interrupt) (lvl : Bool) (n : Nat) :
    exec (.encIsrB lvl n) s = .next (storeLevel lvl (buttonEdge lvl (timeOperand s.cfg n) s)) :=
  inContext_of hc _

/-- Settles O47: outside the interrupt context both are refused, and in it their writes commute. -/
theorem callbackOrderIsUnobservable : Obligations.CallbackOrderIsUnobservable := by
  unfold Obligations.CallbackOrderIsUnobservable
  intro a b lvl n s
  cases hc : s.context with
  | foreground =>
    have hq : exec (.encIsrQ a b) s = .refused .wrongContext :=
      EncodingProofs.exec_wrongContext rfl (by simp [hc, Instr.issuer])
    have hb : exec (.encIsrB lvl n) s = .refused .wrongContext :=
      EncodingProofs.exec_wrongContext rfl (by simp [hc, Instr.issuer])
    rw [hq, hb]
    rfl
  | interrupt =>
    obtain ⟨f, p, hedge⟩ := WriterProofs.buttonEdge_frame lvl (timeOperand s.cfg n) s
    have hafter : (storeLevel lvl (buttonEdge lvl (timeOperand s.cfg n) s)).context = .interrupt := by
      simp [hedge, hc]
    rw [exec_encIsrQ_applyIncrement hc, exec_encIsrB_buttonEdge hc]
    simp only [andThen]
    rw [exec_encIsrB_buttonEdge (by simp [hc]), exec_encIsrQ_applyIncrement hafter]
    simp [callbacks_commute, hedge]

/-! ### The environment and the caller -/

/-- Settles O44: the pull-up decides the level of a released line. -/
theorem pullUpDecidesAReleasedLine : Obligations.PullUpDecidesAReleasedLine := by
  unfold Obligations.PullUpDecidesAReleasedLine
  intro s l rest h
  have hpull : State.pullUp { s with script := rest } l = true := by
    cases l <;> exact h
  have released : releasePin l { s with script := rest } = setPin l true { s with script := rest } := if_pos hpull
  exact congrArg Host.Outcome.next released

/-- Settles O49: the store writes one array and keeps the canonical form. -/
theorem callerWriteIsReadBack : Obligations.CallerWriteIsReadBack := by
  unfold Obligations.CallerWriteIsReadBack
  intro s r bytes rest hwf hs
  refine ⟨callerStore r bytes { s with script := rest }, ExceptionProofs.step_of_script hs, rfl,
    Memory.store_wf s.arrays r bytes hwf, fun j => ?_, fun r' hne j => ?_⟩
  · rw [memRead, callerStore_arrays, Memory.array_store_same s.arrays r bytes hwf]
  · rw [memRead, callerStore_arrays, Memory.array_store_other s.arrays r r' bytes hne, memRead]

/-! ### The flag of the button (R86, R90, R166) -/

theorem exec_btnGet {s : State} (hc : s.context = .foreground) :
    exec .btnGet s = .next { s with btnState := .none, ie := true, ret := .click s.btnState } := inContext_of hc _

/-- Settles O40: the flag is delivered before it is cleared, and a second call finds it clear. -/
theorem btnGetReadsAndClears : Obligations.BtnGetReadsAndClears := by
  unfold Obligations.BtnGetReadsAndClears
  refine ⟨fun c => rfl, fun s => ⟨exec_btnGet, fun hc t h => ?_, fun hc => ?_⟩⟩
  · rw [exec_btnGet hc] at h
    cases h
    exact exec_btnGet hc
  · exact EncodingProofs.exec_wrongContext rfl (by simp [hc, Instr.issuer])

/-- Settles O42: behind its context check a code is one write or one delivery. -/
theorem codeRowsComplete : Obligations.CodeRowsComplete := by
  unfold Obligations.CodeRowsComplete
  intro s
  refine ⟨fun hc hi => ?_, fun hc => inContext_of hc _, fun hc => inContext_of hc _, fun hc => inContext_of hc _,
    fun hc => inContext_of hc _, rfl, rfl, rfl, rfl, rfl⟩
  exact (inContext_of hc _).trans (if_neg (by simp [hi]))

/-- Settles O11: the row is refused by name, and the three values of the flag have the other codes. -/
theorem unreachableButtonCodeIsRefused : Obligations.UnreachableButtonCodeIsRefused := by
  unfold Obligations.UnreachableButtonCodeIsRefused
  exact ⟨fun s => rfl, fun b => by cases b <;> decide⟩

end Sys2Proof.StepProofs
end

section
/-! Runs of scheduled events (60_exceptions.md): the counting law, coalesced steps, and a whole press of the button. -/

namespace Sys2Proof.RunProofs

open Sys2Proof Sys2Proof.Machine

/-! ### One handler run -/

/-- What a scheduled handler run needs of a state between two steps is that the interrupt is pending. -/
theorem run_irq_of_inv {s : State} {rest : List Event} (n : Nat) (h : s.Inv) (hp : s.pcpend = true)
    (hs : s.script = .irq :: rest) :
    Sys2Proof.core.run (n + 1) s = Sys2Proof.core.run n (handled { s with script := rest }) :=
  run_irq n hs hp h.enabled h.foreground h.lower h.upper

/-- A handler run leaves the history in step with the lines. -/
theorem handled_inSync (s : State) : (handled s).inSync := pushSample_low s.hist s.pinA s.pinB

theorem pushSample_of_inSync {h : BitVec 4} {a b : Bool} (hsync : h.extractLsb' 0 2 = sample a b) (a' b' : Bool) :
    pushSample h a' b' = sample a b ++ sample a' b' := by
  rw [pushSample_eq, hsync]

/-- The update away from the limits, when the last sample was `a`, `b`. -/
theorem handled_counter {s : State} {a b : Bool} (hsync : s.hist.extractLsb' 0 2 = sample a b)
    (lo : s.counterMinLimit < s.counter) (hi : s.counter < s.counterMaxLimit) :
    (handled s).counter = s.counter + s.cfg.lut (sample a b ++ sample s.pinA s.pinB) := by
  rw [← pushSample_of_inSync hsync]
  exact counterAfter_inside s _ (lut_range s.cfg _) lo hi

/-- The counter stays when the lines are at their last sample, at a limit too. -/
theorem handled_counter_of_inSync {s : State} (hsync : s.inSync) : (handled s).counter = s.counter := by
  show counterAfter s (s.cfg.lut (pushSample s.hist s.pinA s.pinB)) = s.counter
  rw [pushSample_of_inSync hsync, CounterProofs.lut_same, CounterProofs.counterAfter_zero]

/-! ### Steps of the encoder -/

/-- The state after the environment changes one encoder line (R186). -/
def moved (s : State) (l : EncLine) (rest : List Event) : State :=
  { s with
    pinA := (moveLevels s.pinA s.pinB l).1
    pinB := (moveLevels s.pinA s.pinB l).2
    pcpend := true
    script := rest }

theorem moved_inv {s : State} (h : s.Inv) (l : EncLine) (rest : List Event) : (moved s l rest).Inv := { h with }

theorem run_move {s : State} {l : EncLine} {rest : List Event} (n : Nat) (hp : s.pcie = true)
    (hs : s.script = moveEvent s.pinA s.pinB l :: rest) :
    Sys2Proof.core.run (n + 1) s = Sys2Proof.core.run n (moved s l rest) := by
  cases l <;> rw [run_pin n hs, setPin_eq] <;> simp [moved, State.level, State.setLevel, moveLevels, hp]

/-! ### The counting law (R135) -/

/-- The state after a step of the encoder and the handler run for it. -/
def counted (s : State) (l : EncLine) (rest : List Event) : State := handled (moved s l rest)

theorem run_move_irq {s : State} {l : EncLine} {rest : List Event} (n : Nat) (h : s.Inv) (hp : s.pcie = true)
    (hs : s.script = moveEvent s.pinA s.pinB l :: .irq :: rest) :
    Sys2Proof.core.run (n + 2) s = Sys2Proof.core.run n (counted s l rest) :=
  calc Sys2Proof.core.run (n + 2) s
      = Sys2Proof.core.run (n + 1) (moved s l (.irq :: rest)) := run_move (n + 1) hp hs
    _ = Sys2Proof.core.run n (counted s l rest) := run_irq_of_inv n (moved_inv h l _) rfl rfl

theorem counted_counter {s : State} (l : EncLine) (rest : List Event) (hsync : s.inSync)
    (lo : s.counterMinLimit < s.counter) (hi : s.counter < s.counterMaxLimit) :
    (counted s l rest).counter = s.counter + s.cfg.qdir.sign * moveSign s.pinA s.pinB l := by
  rw [← CounterProofs.lut_move]
  exact handled_counter (s := moved s l rest) hsync lo hi

theorem moveSign_bounds (q : QDir) (a b : Bool) (l : EncLine) :
    -1 ≤ q.sign * moveSign a b l ∧ q.sign * moveSign a b l ≤ 1 := by
  revert a b
  cases l <;> cases q <;> decide

/-- Settles O32: by induction on the moves; each move with its run counts by the table and keeps what the next one
needs, its distance to the limits being the number of moves left. -/
theorem countingLaw : Obligations.CountingLaw := by
  unfold Obligations.CountingLaw
  intro s ls rest h hp hsync hs lo hi
  induction ls generalizing s with
  | nil => exact ⟨s, rfl, hs, by simp [netTurn]⟩
  | cons l ls ih =>
    rw [List.length_cons, Nat.cast_add, Nat.cast_one] at lo hi
    let s' := counted s l (turnEvents (moveLevels s.pinA s.pinB l).1 (moveLevels s.pinA s.pinB l).2 ls ++ rest)
    have hcounter : s'.counter = s.counter + s.cfg.qdir.sign * moveSign s.pinA s.pinB l :=
      counted_counter l _ hsync (by omega) (by omega)
    obtain ⟨low, high⟩ := moveSign_bounds s.cfg.qdir s.pinA s.pinB l
    have lo' : s.counterMinLimit + ls.length ≤ s'.counter := by omega
    have hi' : s'.counter + ls.length ≤ s.counterMaxLimit := by omega
    obtain ⟨t, hrun, hscript, ht⟩ :=
      ih s' (InvariantProofs.handled_inv (moved_inv h l _)) hp (handled_inSync _) rfl lo' hi'
    refine ⟨t, (run_move_irq _ h hp hs).trans hrun, hscript, ?_⟩
    rw [ht, hcounter, netTurn, mul_add, add_assoc]
    rfl

/-! ### Coalesced steps (R188) -/

/-- The levels after `n` steps in one direction. -/
def turnLevels (forward : Bool) : Nat → Bool → Bool → Bool × Bool
  | 0, a, b => (a, b)
  | n + 1, a, b =>
    let levels := moveLevels a b (turnLine forward a b)
    turnLevels forward n levels.1 levels.2

/-- The state after `n` steps in one direction. -/
def turned (s : State) (forward : Bool) (n : Nat) (rest : List Event) : State :=
  { s with
    pinA := (turnLevels forward n s.pinA s.pinB).1
    pinB := (turnLevels forward n s.pinA s.pinB).2
    pcpend := s.pcpend || decide (0 < n)
    script := rest }

theorem run_sameWayMoves (forward : Bool) (n m : Nat) {s : State} {rest : List Event} (hp : s.pcie = true)
    (hs : s.script = sameWayMoves forward n s.pinA s.pinB ++ rest) :
    Sys2Proof.core.run (m + n) s = Sys2Proof.core.run m (turned s forward n rest) := by
  induction n generalizing s with
  | zero =>
    obtain rfl : s.script = rest := hs
    simp [turned, turnLevels]
  | succ n ih =>
    let l := turnLine forward s.pinA s.pinB
    let s' := moved s l
      (sameWayMoves forward n (moveLevels s.pinA s.pinB l).1 (moveLevels s.pinA s.pinB l).2 ++ rest)
    have last : turned s' forward n rest = turned s forward (n + 1) rest := by
      simp [turned, s', moved, turnLevels, l]
    calc Sys2Proof.core.run (m + (n + 1)) s
        = Sys2Proof.core.run (m + n) s' := run_move (m + n) hp hs
      _ = Sys2Proof.core.run m (turned s' forward n rest) := ih hp rfl
      _ = Sys2Proof.core.run m (turned s forward (n + 1) rest) := by rw [last]

/-- R188 by the table: what one run makes of the sample before and the sample after `n` steps. -/
theorem lut_turnLevels (c : Config) (forward a b : Bool) {n : Nat} (h1 : 1 ≤ n) (h4 : n ≤ 4) :
    let one := if forward then c.qdir.sign else -c.qdir.sign
    c.lut (sample a b ++ sample (turnLevels forward n a b).1 (turnLevels forward n a b).2) =
      if n = 1 then one else if n = 3 then -one else 0 := by
  have entry : lutTable.getD (sample a b ++ sample (turnLevels forward n a b).1 (turnLevels forward n a b).2).toNat 0 =
      (if forward then 1 else -1) * if n = 1 then 1 else if n = 3 then -1 else 0 := by
    revert forward a b
    interval_cases n <;> decide
  rw [Config.lut, entry]
  split_ifs <;> simp

theorem coalesced_steps {s : State} {rest : List Event} (h : s.Inv) (hp : s.pcie = true) (hsync : s.inSync)
    (lo : s.counterMinLimit < s.counter) (hi : s.counter < s.counterMaxLimit) {forward : Bool} {n : Nat} (h1 : 1 ≤ n)
    (h4 : n ≤ 4) (hs : s.script = sameWayMoves forward n s.pinA s.pinB ++ .irq :: rest) :
    let one := if forward then s.cfg.qdir.sign else -s.cfg.qdir.sign
    ∃ t, Sys2Proof.core.run (n + 1) s = .next t ∧ t.script = rest ∧
      t.counter = s.counter + (if n = 1 then one else if n = 3 then -one else 0) := by
  intro one
  have pending : (turned s forward n (.irq :: rest)).pcpend = true := by
    simp [turned, Nat.lt_of_lt_of_le Nat.zero_lt_one h1]
  have hinv : (turned s forward n (.irq :: rest)).Inv := { h with }
  refine ⟨handled (turned s forward n rest), ?_, rfl, ?_⟩
  · rw [Nat.add_comm]
    exact (run_sameWayMoves forward n 1 hp hs).trans (run_irq_of_inv 0 hinv pending rfl)
  · rw [← lut_turnLevels s.cfg forward s.pinA s.pinB h1 h4]
    exact handled_counter (s := turned s forward n rest) hsync lo hi

/-- A line that changes and changes back leaves the interrupt pending and nothing else (R186). -/
theorem run_change_back {s : State} {l : InLine} {rest : List Event} (n : Nat) (hp : s.pcie = true)
    (hs : s.script = .pin l (!s.level l) :: .pin l (s.level l) :: rest) :
    Sys2Proof.core.run (n + 2) s = Sys2Proof.core.run n { s with pcpend := true, script := rest } := by
  let s' := setPin l (!s.level l) { s with script := .pin l (s.level l) :: rest }
  have script : s'.script = .pin l (s.level l) :: rest := by simp only [s', setPin_eq]
  have back : setPin l (s.level l) { s' with script := rest } = { s with pcpend := true, script := rest } := by
    simp only [s', setPin_eq]
    cases l <;> simp [State.level, State.setLevel, hp]
  calc Sys2Proof.core.run (n + 2) s
      = Sys2Proof.core.run (n + 1) s' := run_pin (n + 1) hs
    _ = Sys2Proof.core.run n (setPin l (s.level l) { s' with script := rest }) := run_pin n script
    _ = Sys2Proof.core.run n { s with pcpend := true, script := rest } := by rw [back]

/-- Without an edge of the button a run leaves its registers (R164). -/
theorem handled_no_edge {s : State} (h : s.prevBtn = s.pinBtn) :
    (handled s).btnState = s.btnState ∧ (handled s).pressStart = s.pressStart ∧ (handled s).prevBtn = s.prevBtn := by
  simp only [handled, ← h, ButtonProofs.buttonEdge_prevBtn, and_self]

/-- Settles O33: some steps in one direction are seen as their first and last sample, and a line that changed back as no
step and no edge. -/
theorem coalescedStepsAreMiscounted : Obligations.CoalescedStepsAreMiscounted := by
  unfold Obligations.CoalescedStepsAreMiscounted
  intro s rest h hp hsync lo hi
  refine ⟨fun forward n h1 h4 hs => coalesced_steps h hp hsync lo hi h1 h4 hs, fun l hs => ?_⟩
  let s' : State := { s with pcpend := true, script := rest }
  refine ⟨handled s', ?_, rfl, pushSample_of_inSync hsync _ _, handled_counter_of_inSync (s := s') hsync,
    handled_no_edge (s := s')⟩
  exact (run_change_back 1 hp hs).trans (run_irq_of_inv 0 { h with } rfl rfl)

/-! ### A press of the button (R163, R167) -/

/-- The state after `NOW` is set and the button changes its level. -/
def buttonMoved (s : State) (t : Nat) (v : Bool) (rest : List Event) : State :=
  { s with now := t, pinBtn := v, pcpend := true, script := rest }

/-- The time, the button and the handler run. -/
theorem run_button {s : State} {t : Nat} {v : Bool} {rest : List Event} (n : Nat) (h : s.Inv) (hp : s.pcie = true)
    (hv : s.pinBtn = !v) (ht : t < 2 ^ s.cfg.tw) (hs : s.script = .time t :: .pin .btn v :: .irq :: rest) :
    Sys2Proof.core.run (n + 3) s = Sys2Proof.core.run n (handled (buttonMoved s t v rest)) := by
  let s' : State := { s with script := .pin .btn v :: .irq :: rest, now := t % 2 ^ s.cfg.tw }
  have changed : setPin .btn v { s' with script := .irq :: rest } = buttonMoved s t v (.irq :: rest) := by
    rw [setPin_eq, show s'.now = t from Nat.mod_eq_of_lt ht]
    simp [s', buttonMoved, State.level, State.setLevel, hp, hv]
  have hinv : (buttonMoved s t v (.irq :: rest)).Inv := { h with nowRange := ht }
  calc Sys2Proof.core.run (n + 3) s
      = Sys2Proof.core.run (n + 2) s' := run_time (n + 2) hs
    _ = Sys2Proof.core.run (n + 1) (setPin .btn v { s' with script := .irq :: rest }) := run_pin (n + 1) rfl
    _ = Sys2Proof.core.run (n + 1) (buttonMoved s t v (.irq :: rest)) := by rw [changed]
    _ = Sys2Proof.core.run n (handled (buttonMoved s t v rest)) := run_irq_of_inv n hinv rfl rfl

theorem handled_falling {s : State} (hb : s.prevBtn = true) (hl : s.pinBtn = false) (hn : s.now < 2 ^ s.cfg.tw) :
    (handled s).btnState = s.btnState ∧ (handled s).pressStart = s.now := by
  simp only [handled, hl, timeOperand_of_lt s.cfg s.now hn, ButtonProofs.buttonEdge_falling hb, and_self]

theorem handled_rising {s : State} (hb : s.prevBtn = false) (hl : s.pinBtn = true) (hn : s.now < 2 ^ s.cfg.tw) :
    (handled s).btnState = classify s.cfg (heldTime s.cfg s.now s.pressStart) s.btnState ∧
      (handled s).pressStart = s.pressStart := by
  simp only [handled, hl, timeOperand_of_lt s.cfg s.now hn, ButtonProofs.buttonEdge_rising hb, setBtnState, and_self]

/-- Settles O41: the first run records the press, the second classifies the hold, and neither sees the encoder move. -/
theorem pressIsClassifiedOnRelease : Obligations.PressIsClassifiedOnRelease := by
  unfold Obligations.PressIsClassifiedOnRelease
  intro s t0 t1 rest h hp hb hl hle h1 hs
  have h0 : t0 < 2 ^ s.cfg.tw := hle.trans_lt h1
  let down := buttonMoved s t0 false (.time t1 :: .pin .btn true :: .irq :: rest)
  let up := buttonMoved (handled down) t1 true rest
  have downInv : (handled down).Inv := InvariantProofs.handled_inv { h with nowRange := h0 }
  obtain ⟨downState, downStart⟩ := handled_falling (s := down) hb rfl h0
  obtain ⟨upState, upStart⟩ := handled_rising (s := up) rfl rfl h1
  refine ⟨handled up, ?_, rfl, rfl, upStart.trans downStart, ?_, fun hsync => ?_⟩
  · exact (run_button 3 (v := false) h hp hl h0 hs).trans (run_button 0 downInv hp rfl h1 rfl)
  · have start : up.pressStart = t0 := downStart
    have flag : up.btnState = s.btnState := downState
    have held : heldTime up.cfg up.now t0 = t1 - t0 := (heldTime_eq s.cfg t1 t0 h1 h0).trans (if_pos hle)
    rw [upState, start, flag, held, ButtonProofs.classify_eq]
    rfl
  · exact (handled_counter_of_inSync (s := up) (handled_inSync down)).trans (handled_counter_of_inSync (s := down) hsync)

end Sys2Proof.RunProofs
end
